-- ==== Sys2Proof/Word.lean ====
section
/-! DEFINITION. Word.lean: the byte, word and sequence types of rule R10 (00_scope.md).
Names only; every operation on them is defined under Machine/. -/

namespace Sys2Proof

/-- R10: "a byte is an unsigned 8-bit value". -/
abbrev Byte := BitVec 8

/-- R10: "a word is an unsigned 32-bit value". REG_W = 32 (R7). -/
abbrev Word := BitVec 32

/-- A buffer-memory address, ADDR_W = 32 bits (R7, R61); sums of addresses wrap (R66). -/
abbrev Addr := BitVec 32

/-- R10: "a block is a sequence of 16 bytes indexed 0 to 15". BLOCK_BYTES = 16 (R7). -/
abbrev Block := Vector Byte 16

/-- A word of the key schedule: 4 bytes in index order, never a 32-bit number (R14, R122, N5). -/
abbrev KWord := Vector Byte 4

/-- The 32 bytes the KEY registers hold (R36); a 16-byte key is bytes 0 to 15. -/
abbrev KeyBytes := Vector Byte 32

/-- R10: "a round-key schedule is a sequence of 240 bytes indexed 0 to 239". RKS_BYTES = 240 (R7). -/
abbrev Schedule := Vector Byte 240

end Sys2Proof
end

