-- ==== Sys2Proof/Config.lean ====
section
/-! DEFINITION. Config.lean: what the platform or the implementation fixes (the OPEN rows of rule R7, 00_scope.md)
and the free values (rules R40, R71, R231, R20; items U1, U2, U3, U9 of 93_implementation_defined.md).
A free value is an opaque constant: no proof can see what it is. -/

namespace Sys2Proof

/-- R8, R125: the AES-256 key expansion the engine uses. OPEN, with no default (90_conflicts.md C1, D11). -/
inductive KsMode where
  /-- SRC_BLOCK16, rule R126 -/
  | srcBlock16
  /-- SRC_NK8_NOSUB, rule R127 -/
  | srcNk8NoSub
  /-- FIPS197, rule R128 -/
  | fips197
  deriving DecidableEq, Repr, Inhabited

/-- The second argument of MEM_OK (R61). -/
inductive AccessKind where
  | read
  | write
  deriving DecidableEq, Repr, Inhabited

/-- A run of buffer-memory addresses `lo, ..., lo + size - 1` that answer without a bus error, and for which accesses.
The address space is finite (R61), so every predicate MEM_OK is a list of such runs. -/
structure Region where
  lo : Nat
  size : Nat
  readable : Bool
  writable : Bool
  deriving DecidableEq, Repr, Inhabited

/-- The open parameters of rule R7 as plain data (log entry 1). -/
structure Platform where
  /-- BASE: the host address of register offset 0x000 (R23) -/
  base : Nat
  /-- MEM_OK: which buffer addresses answer, and for which accesses (R61) -/
  memMap : List Region
  /-- KS256_MODE (R8) -/
  ks256Mode : KsMode
  /-- IRQ_ROUTE: the input of the host's interrupt system that the IRQ line drives, or none (R210; log entry 6) -/
  irqRoute : Option Nat
  /-- the buffer address at which the platform also maps register offset 0x000, or none (R63, R207; log entry 4) -/
  windowAt : Option Addr
  deriving DecidableEq, Repr, Inhabited

/-- The platform the reset state stands on: open, so nothing is known of it (R7; log entry 1). -/
opaque Config.platform : Platform

/-- Free value: what a host read of DOUT or RK returns while the engine is busy (R40, U3), and what a host read outside
the register window returns (log entry 12). -/
opaque Config.freeWord : Nat → Word

/-- Free value: whether a byte of a failed or interrupted block write took its new value (R71 U1, R231 U2). -/
opaque Config.freeBit : Nat → Bool

/-- Free value: whether the HOST moves first when HOST and ENGINE are both enabled and the state names no turn
(R20, U9; log entry 2). -/
opaque Config.hostFirst : Nat → Bool

end Sys2Proof
end

