-- ==== Sys2Proof/Machine/KeySchedule.lean ====
section
/-! DEFINITION. Machine/KeySchedule.lean: the sub-block key_schedule_expander (41_key_schedule.md). -/

namespace Sys2Proof.Machine

/-- R121: the round constants, RC[1] = 1 and RC[r] = xtime(RC[r-1]). "RC[0] is never used". -/
def rcon : Nat → Byte
  | 0 => 0x01#8
  | 1 => 0x01#8
  | r + 2 => xtime (rcon (r + 1))

/-- R122: "rotate left by one byte position". -/
def rotWord (w : KWord) : KWord := #v[w[1], w[2], w[3], w[0]]

/-- R122: the S-box on each of the 4 bytes. -/
def subWord (w : KWord) : KWord := #v[sbox w[0], sbox w[1], sbox w[2], sbox w[3]]

/-- R122: byte-wise XOR of words. -/
def xorWord (a b : KWord) : KWord := #v[a[0] ^^^ b[0], a[1] ^^^ b[1], a[2] ^^^ b[2], a[3] ^^^ b[3]]

/-- R123 steps 2 and 3: SubWord(RotWord(w)) with its first byte XORed with RC[r]. -/
def keyCore (w : KWord) (r : Nat) : KWord := xorWord (subWord (rotWord w)) #v[rcon r, 0#8, 0#8, 0#8]

/-- Word j (0..3) of a block: bytes 4j to 4j+3. -/
def blockWord (b : Block) (j : Fin 4) : KWord := #v[b[4 * j.val], b[4 * j.val + 1], b[4 * j.val + 2], b[4 * j.val + 3]]

/-- A block from its four words. -/
def blockOfKWords (w0 w1 w2 w3 : KWord) : Block := w0 ++ w1 ++ w2 ++ w3

/-- R123: block r of the source's recurrence from block r-1. -/
def nextBlock (p : Block) (r : Nat) : Block :=
  let n0 := xorWord (blockWord p 0) (keyCore (blockWord p 3) r)
  let n1 := xorWord (blockWord p 1) n0
  let n2 := xorWord (blockWord p 2) n1
  let n3 := xorWord (blockWord p 3) n2
  blockOfKWords n0 n1 n2 n3

/-- The blocks B[r-1], B[r], ..., n of them after the first, each the next block of the one before it (R124, R126). -/
def blockChain : Nat → Nat → Block → List Block
  | 0, _, p => [p]
  | n + 1, r, p => p :: blockChain n (r + 1) (nextBlock p r)

/-- A zero block, and the zero word of the key schedule. -/
def zeroBlock : Block := Vector.replicate 16 0#8
def zeroKWord : KWord := Vector.replicate 4 0#8

/-- Blocks in order as a 240-byte schedule; the bytes after the last block are 0 (R124, D29). -/
def scheduleOfBlocks (bs : List Block) : Schedule :=
  Vector.ofFn fun i : Fin 240 => (bs.getD (i.val / 16) zeroBlock)[i.val % 16]

/-- Words in order as a 240-byte schedule. -/
def scheduleOfKWords (ws : List KWord) : Schedule :=
  Vector.ofFn fun i : Fin 240 => (ws.getD (i.val / 4) zeroKWord)[i.val % 4]

/-- Key bytes 0 to 15 as a block, the first block of R124 and R126. -/
def keyBlock (key : KeyBytes) : Block := Vector.ofFn fun i : Fin 16 => key[i.val]

/-- R124: the AES-128 expansion: 11 blocks, then 64 bytes of 0. -/
def keyExpansion128 (key : KeyBytes) : Schedule := scheduleOfBlocks (blockChain 10 1 (keyBlock key))

/-- R126: SRC_BLOCK16: 15 blocks from key bytes 0 to 15. -/
def keyExpansionBlock16 (key : KeyBytes) : Schedule := scheduleOfBlocks (blockChain 14 1 (keyBlock key))

/-- R127, R128: key word i: key bytes 4i to 4i+3. -/
def keyWord (key : KeyBytes) (i : Fin 8) : KWord :=
  #v[key[4 * i.val], key[4 * i.val + 1], key[4 * i.val + 2], key[4 * i.val + 3]]

/-- R127, R128: words 0 to 7 are the key. -/
def keyWords (key : KeyBytes) : List KWord :=
  [keyWord key 0, keyWord key 1, keyWord key 2, keyWord key 3, keyWord key 4, keyWord key 5, keyWord key 6, keyWord key 7]

/-- R127, R128: the word t that word i is made with, from word i-1; `sub` says whether the S-box-only branch for
i mod 8 = 4 is there (R128) or omitted (R127). -/
def nk8Temp (sub : Bool) (i : Nat) (w : KWord) : KWord :=
  if i % 8 = 0 then keyCore w (i / 8) else if sub ∧ i % 8 = 4 then subWord w else w

/-- R127, R128: the words so far with word i added, w[i] = w[i-8] ^ t. -/
def nk8Extend (sub : Bool) (ws : List KWord) (i : Nat) : List KWord :=
  ws ++ [xorWord (ws.getD (i - 8) zeroKWord) (nk8Temp sub i (ws.getD (i - 1) zeroKWord))]

/-- R127, R128: words 0 to 59: the key words, then one word for each i in 8..59. -/
def nk8Words (sub : Bool) (key : KeyBytes) : List KWord := (List.range' 8 52).foldl (nk8Extend sub) (keyWords key)

/-- R125: the AES-256 expansion that KS256_MODE selects. -/
def keyExpansion256 (mode : KsMode) (key : KeyBytes) : Schedule :=
  match mode with
  | .srcBlock16 => keyExpansionBlock16 key
  | .srcNk8NoSub => scheduleOfKWords (nk8Words false key)
  | .fips197 => scheduleOfKWords (nk8Words true key)

/-- R120: the port `klen` of the expander: true for a 32-byte key. Its result is the schedule and the round count (R124, R125). -/
def keyScheduleExpander (mode : KsMode) (key : KeyBytes) (klen : Bool) : Schedule × BitVec 8 :=
  if klen then (keyExpansion256 mode key, 14#8) else (keyExpansion128 key, 10#8)

end Sys2Proof.Machine
end

