-- ==== Sys2Proof/Syntax.lean ====
section
/-! DEFINITION. Syntax.lean: the commands of the engine, one constructor per row of spec/opcode_table.json
(rule R82, 30_encoding.md). Commands carry no immediates (R84), so no constructor has an argument. -/

namespace Sys2Proof

/-- R82: the opcode map. Every other word is illegal and is no command (R83). -/
inductive Instr where
  /-- word 0x00000000, rule R170 -/
  | nop
  /-- word 0x00000001, rule R171 -/
  | expandKey
  /-- word 0x00000002, rule R172 -/
  | encryptBlock
  /-- word 0x00000003, rule R173 -/
  | ecbEncrypt
  /-- word 0x00000004, rule R174 -/
  | encrypt
  /-- word 0x00000005, rule R175 -/
  | clear
  deriving DecidableEq, Repr, Inhabited

end Sys2Proof
end

