-- ==== Sys2Proof/WellFormed.lean ====
section
/-! DEFINITION. WellFormed.lean: which instructions and which command words are well formed.
A command has no operand field (R84), so an instruction has nothing to check; the checks are those of its 32-bit word
(rules R80 and R83, 30_encoding.md). -/

namespace Sys2Proof

/-- R84: "Commands carry no immediates", so every constructor stands for a command as it is. -/
def Instr.wf : Instr → Bool
  | .nop => true
  | .expandKey => true
  | .encryptBlock => true
  | .ecbEncrypt => true
  | .encrypt => true
  | .clear => true

/-- R80: the field RSVD, bits 31:4, must be 0. -/
def CommandWord.rsvdZero (v : Word) : Bool := v.extractLsb' 4 28 == 0#28

/-- R83: an opcode in 0x6..0xF is undefined. -/
def CommandWord.opDefined (v : Word) : Bool := (v.extractLsb' 0 4).toNat ≤ 5

/-- R83: a word is a command of the opcode map exactly when both fields are legal. -/
def CommandWord.wf (v : Word) : Bool := CommandWord.rsvdZero v && CommandWord.opDefined v

end Sys2Proof
end

