-- ==== Sys2Proof/Decode.lean ====
section
/-! DEFINITION. Decode.lean: decoding of a command word (rule R81) and its encoder (rule R82), 30_encoding.md. -/

namespace Sys2Proof

/-- What decoding a 32-bit word gives: a command, or one of the two reasons of R83 why the word is illegal. -/
inductive Decoded where
  | command (i : Instr)
  /-- RSVD (bits 31:4) is not 0 -/
  | reservedBits
  /-- RSVD is 0 and OP (bits 3:0) is in 0x6..0xF -/
  | undefinedOp
  deriving DecidableEq, Repr

/-- R80: the field RSVD, bits 31:4. -/
def cmdRsvd (v : Word) : BitVec 28 := v.extractLsb' 4 28

/-- R80: the field OP, bits 3:0. -/
def cmdOp (v : Word) : BitVec 4 := v.extractLsb' 0 4

/-- R81, the case on OP. -/
def decodeOp (op : BitVec 4) : Decoded :=
  match op.toNat with
  | 0 => .command .nop
  | 1 => .command .expandKey
  | 2 => .command .encryptBlock
  | 3 => .command .ecbEncrypt
  | 4 => .command .encrypt
  | 5 => .command .clear
  | _ => .undefinedOp

/-- R81: "Decoding is total on every 32-bit word". -/
def decode (v : Word) : Decoded :=
  if cmdRsvd v ≠ 0#28 then .reservedBits else decodeOp (cmdOp v)

/-- R82: the word that selects each command. -/
def encode : Instr → Word
  | .nop => 0x00000000#32
  | .expandKey => 0x00000001#32
  | .encryptBlock => 0x00000002#32
  | .ecbEncrypt => 0x00000003#32
  | .encrypt => 0x00000004#32
  | .clear => 0x00000005#32

/-- The command word whose low `nbits` bits are those of `w`, and whose other bits are 0. -/
def tableWord (nbits w : Nat) : Word := BitVec.ofNat 32 (w % 2 ^ nbits)

/-- The command the decoder reads from a word given in the opcode table's bit numbering. A command is one 32-bit register
write (R80), so the word is the register's data as it stands; a longer row is no command. -/
def decodeTableWord (nbits w : Nat) : Option Instr :=
  if nbits ≤ 32 then
    match decode (tableWord nbits w) with
    | .command i => some i
    | .reservedBits => none
    | .undefinedOp => none
  else none

end Sys2Proof
end

