-- ==== Sys2Proof/Machine/HostSyntax.lean ====
section
/-! DEFINITION. Machine/HostSyntax.lean: host programs (rules R87 to R89, 30_encoding.md): the statements, their
well-formedness and the pseudo-instructions. Names and labels are numbers. -/

namespace Sys2Proof.Machine

/-- The value a host program binds to a name: a register word (`R`), or buffer bytes (`MR`). -/
inductive HostVal where
  | word (w : Word)
  | bytes (bs : List Byte)
  deriving DecidableEq, Repr

/-- R87: "condition on bound names". -/
inductive Cond where
  /-- `x[hi:lo] = v` on a bound word (R9) -/
  | field (x hi lo v : Nat)
  /-- the bytes bound to x are exactly these -/
  | bytesAre (x : Nat) (bs : List Byte)
  | neg (c : Cond)
  | both (a b : Cond)
  | either (a b : Cond)
  deriving DecidableEq, Repr

/-- R87: the statements of a host program. `write` and `read` carry the access width in bits so that the accesses R23
does not support can be written down; `W off, v` and `R off -> x` are the 32-bit ones. -/
inductive HostStmt where
  /-- `W off, v`: register write at BASE + off -/
  | write (bits off : Nat) (v : Word)
  /-- `R off -> x`: register read at BASE + off -/
  | read (bits off x : Nat)
  /-- `MW a, <bytes>` -/
  | memWrite (a : Addr) (bs : List Byte)
  /-- `MR a, n -> x` -/
  | memRead (a : Addr) (n x : Nat)
  /-- `L:` -/
  | label (l : Nat)
  /-- `IF <condition> GOTO L` -/
  | ifGoto (c : Cond) (l : Nat)
  /-- the host samples input n of its interrupt system (R234 step 6 "or IRQ"; not a statement of R87, log entry 6) -/
  | irq (n x : Nat)
  /-- `END` -/
  | stop
  deriving DecidableEq, Repr

/-- `W off, v` (R87). -/
def regW (off : Nat) (v : Word) : HostStmt := .write 32 off v

/-- `R off -> x` (R87). -/
def regR (off x : Nat) : HostStmt := .read 32 off x

/-- The position of the label `l`, counted from `at`. -/
def labelFrom (l : Nat) : Nat → List HostStmt → Option Nat
  | _, [] => none
  | n, st :: rest => if st = .label l then some n else labelFrom l (n + 1) rest

/-- The position of the label `l` in a program. -/
def labelAt (prog : List HostStmt) (l : Nat) : Option Nat := labelFrom l 0 prog

/-- A statement that keeps the host's own rules: a 32-bit access to an aligned offset of the window (R23, R80), a branch to a
label the program has. -/
def HostStmt.wf (prog : List HostStmt) : HostStmt → Bool
  | .write bits off _ => bits == 32 && off % 4 == 0 && decide (off < 1024)
  | .read bits off _ => bits == 32 && off % 4 == 0 && decide (off < 1024)
  | .memWrite _ _ => true
  | .memRead _ _ _ => true
  | .label l => prog.count (.label l) == 1
  | .ifGoto _ l => prog.contains (.label l)
  | .irq _ _ => true
  | .stop => true

/-- A well-formed host program: every statement is, and the program has an `END` (R89). -/
def hostProgWf (prog : List HostStmt) : Bool := prog.all (HostStmt.wf prog) && prog.contains .stop

/-- R13, `words` on the first 4 bytes of a list, the lowest byte first. -/
def leWord (b0 b1 b2 b3 : Byte) : Word :=
  b0.setWidth 32 ||| b1.setWidth 32 <<< 8 ||| b2.setWidth 32 <<< 16 ||| b3.setWidth 32 <<< 24

/-- R13: `words` of a byte list; bytes beyond the last full word are not packed. -/
def leWords : List Byte → List Word
  | b0 :: b1 :: b2 :: b3 :: rest => leWord b0 b1 b2 b3 :: leWords rest
  | _ => []

/-- Consecutive register writes from offset `off` on. -/
def regWs : Nat → List Word → List HostStmt
  | _, [] => []
  | off, w :: ws => regW off w :: regWs (off + 4) ws

/-- R88: `CMD <command>`. -/
def pseudoCmd (i : Instr) : List HostStmt := [regW 0x004 (encode i)]

/-- R88: `WAIT`, with a fresh label `l` and the name `x` it binds. -/
def pseudoWait (l x : Nat) : List HostStmt := [.label l, regR 0x008 x, .ifGoto (.field x 0 0 1) l]

/-- R88: `ACK`. -/
def pseudoAck : List HostStmt := [regW 0x008 0x00000002#32]

/-- R88: `SETKEY <hex digits>`: the length, then the words of a 16-byte or a 32-byte key. -/
def pseudoSetKey (key : List Byte) : List HostStmt :=
  regW 0x00C (BitVec.ofNat 32 key.length) :: regWs 0x020 (leWords key)

/-- R88: `SETBLOCK <32 hex digits>`. -/
def pseudoSetBlock (b : List Byte) : List HostStmt := regWs 0x040 (leWords b)

/-- R88: `SETBUF src, dst, len`. -/
def pseudoSetBuf (src dst len : Word) : List HostStmt := [regW 0x014 src, regW 0x018 dst, regW 0x010 len]

end Sys2Proof.Machine
end

