-- ==== Sys2Proof/Machine/State.lean ====
section
/-! DEFINITION. Machine/State.lean: the state of the machine as plain data (10_state.md), the reasons a step can stop,
and the state after RESET (rule R46). -/

namespace Sys2Proof.Machine

/-- R41: the phases of the controller's sequencer. -/
inductive Phase where
  | idle
  | start
  | expand
  | block
  deriving DecidableEq, Repr

/-- R41: `st.op`, the opcode of the accepted command: one of the six, or ILLEGAL. -/
inductive Op where
  | cmd (i : Instr)
  | illegal
  deriving DecidableEq, Repr

/-- R200: the error codes that completion writes. Codes 6 to 15 are "never produced", so there is no name for them. -/
inductive ErrCode where
  | ok
  | invalidKeyLength
  | invalidBufferLength
  | missingInput
  | illegalCommand
  | busError
  deriving DecidableEq, Repr

/-- R21: the engine's state: the host-visible registers of R24 and the internal state `st` of R34, R41, R42 and R43.
STATUS is the view of busy, done, keyvalid, errcode and rounds (R28); the IRQ output is derived (R44). -/
structure Engine where
  /-- CTRL.IE (R26), 1 bit -/
  ie : Bool
  /-- KEYLEN (R29), bits 7:0 -/
  keylen : BitVec 8
  /-- LEN (R30) -/
  len : Word
  /-- SRC (R31) -/
  src : Word
  /-- DST (R32) -/
  dst : Word
  /-- BLKCNT (R33) -/
  blkcnt : Word
  /-- KEY0..KEY7 (R36) -/
  key : Vector Word 8
  /-- DIN0..DIN3 (R37) -/
  din : Vector Word 4
  /-- DOUT0..DOUT3 (R38) -/
  dout : Vector Word 4
  /-- `st.rks`, the RKS file (R34), seen by the host as RK0..RK59 (R35) -/
  rks : Schedule
  /-- `st.phase` (R41) -/
  phase : Phase
  /-- `st.op` (R41) -/
  op : Op
  /-- `st.blk` (R41), "a natural from 0 to 0x0FFFFFFF" -/
  blk : Nat
  /-- `st.busy` (R28, R41) -/
  busy : Bool
  /-- `st.done` (R28) -/
  done : Bool
  /-- `st.keyvalid` (R28, R42) -/
  keyvalid : Bool
  /-- `st.errcode` (R28, R200) -/
  errcode : ErrCode
  /-- `st.rounds` (R28 bits 15:8, R42) -/
  rounds : BitVec 8
  /-- `st.state`, the working State (R43), dead between transforms; no rule and no step reads it (log entry 8) -/
  work : Block
  deriving DecidableEq, Repr

/-- R61: the buffer memory: (address, byte) pairs in canonical form; an unlisted address reads as 0 (log entry 7). -/
abbrev Memory := List Host.Cell

/-- R89: how far a host program is. -/
inductive HostRun where
  /-- it has not taken `END` -/
  | running
  /-- it took `END` with BUSY = 0: it has an end state -/
  | ended
  /-- it took `END` with BUSY = 1: "A program that ends with BUSY = 1 has no end state" (R89, U11) -/
  | endedBusy
  deriving DecidableEq, Repr

/-- R20, R87, R89: the HOST agent: the program it runs, its position in it, the names it has bound, newest first, and whether and
how it has ended. -/
structure HostAgent where
  prog : List HostStmt
  pc : Nat
  env : List (Nat × HostVal)
  run : HostRun
  deriving DecidableEq, Repr

/-- R241: the ranges of a buffer command, as its acceptance found them. -/
structure Claim where
  src : Word
  dst : Word
  len : Word
  deriving DecidableEq, Repr

/-- R20: the three agents that act on the state. -/
inductive Agent where
  | host
  | engine
  | reset
  deriving DecidableEq, Repr

/-- The machine: the engine (R21), the buffer memory it shares with the host (R61), the host (R20, R87), the open
parameters (R7), and three fields of the model's own: whose turn it is, the buffer ranges the host may not touch, and the
count of free values drawn. -/
structure State where
  eng : Engine
  mem : Memory
  host : HostAgent
  /-- the open parameters of R7; no step changes them (log entry 1) -/
  cfg : Platform
  /-- the model's own: the agents that move next, in order; empty leaves the order open (R20, U9; log entry 2) -/
  turns : List Agent
  /-- the model's own: ranges of buffer commands whose completion the host has not observed (R206, R241; log entry 5) -/
  owned : List Claim
  /-- the model's own: free values drawn so far (log entry 3) -/
  draws : Nat
  deriving DecidableEq, Repr

/-- Why the machine stops with a fault: the three model-level faults of R205 to R207 and nothing else. The run has no
meaning after one (R208; log entry 19). All are SAFE: the hardware goes on in a way the spec does not describe. -/
inductive Fault where
  /-- R205: raised by the host's register access (HostAgentStep.lean) when it is not 32-bit or not aligned to 4. Safe. -/
  | hostAccess
  /-- R206: raised by the host's buffer access (HostAgentStep.lean) inside a range that a buffer command owns. Safe. -/
  | hostBufferRace
  /-- R207: raised by the host's CMD write (RegMap.lean) that would start a buffer command over the register window. Safe. -/
  | bufferAlias
  deriving DecidableEq, Repr

/-- Why a step has no meaning. -/
inductive Refusal where
  /-- an arm of exec without a meaning; no arm is one. Safe. -/
  | notModelled (mnemonic : String)
  /-- raised by the host's `IF ... GOTO L` (HostAgentStep.lean) in a text that has no label L: no host program of R87. Safe. -/
  | undefinedLabel (l : Nat)
  /-- raised by the host's `IF` (HostAgentStep.lean) on a name it has not bound, or bound to the other kind of value: R87 gives
  conditions "on bound names" only. Safe. -/
  | unboundName
  deriving DecidableEq, Repr

/-- R46: every piece of engine state after RESET. -/
def Engine.reset : Engine where
  ie := false
  keylen := 0#8
  len := 0#32
  src := 0#32
  dst := 0#32
  blkcnt := 0#32
  key := Vector.replicate 8 0#32
  din := Vector.replicate 4 0#32
  dout := Vector.replicate 4 0#32
  rks := Vector.replicate 240 0#8
  phase := .idle
  op := .cmd .nop
  blk := 0
  busy := false
  done := false
  keyvalid := false
  errcode := .ok
  rounds := 0#8
  work := Vector.replicate 16 0#8

/-- A host with no program (log entry 20). -/
def HostAgent.none : HostAgent where
  prog := []
  pc := 0
  env := []
  run := .running

/-- The state after RESET on a given platform, with no host program and a buffer memory that lists nothing. -/
def State.resetOn (p : Platform) : State where
  eng := Engine.reset
  mem := []
  host := HostAgent.none
  cfg := p
  turns := []
  owned := []
  draws := 0

/-- R46, R232: "a model starts from the state of" R46; the platform is open (R7). -/
def State.reset : State := State.resetOn Config.platform

end Sys2Proof.Machine
end

