-- ==== Sys2Proof/Machine/Flags.lean ====
section
/-! DEFINITION. Machine/Flags.lean: the STATUS word and its fields (rules R28, R45), the error codes (rule R200) and the
interrupt output (rules R44, R210). -/

namespace Sys2Proof.Machine

/-- A flag as the number 0 or 1. -/
def bit (b : Bool) : Word := if b then 1#32 else 0#32

/-- R200: the number of an error code. -/
def errNumber : ErrCode → Word
  | .ok => 0#32
  | .invalidKeyLength => 1#32
  | .invalidBufferLength => 2#32
  | .missingInput => 3#32
  | .illegalCommand => 4#32
  | .busError => 5#32

/-- R28: the word a read of STATUS returns; bit 3 and bits 31:16 read as 0. -/
def statusWord (e : Engine) : Word :=
  bit e.busy ||| bit e.done <<< 1 ||| bit e.keyvalid <<< 2 ||| errNumber e.errcode <<< 4 ||| e.rounds.setWidth 32 <<< 8

/-- R26: the word a read of CTRL returns; bits 31:1 read as 0. -/
def ctrlWord (e : Engine) : Word := bit e.ie

/-- R44: `IRQ = CTRL.IE & STATUS.DONE`, level; it holds no state of its own. -/
def irqLine (e : Engine) : Bool := e.ie && e.done

/-- R210: input n of the host's interrupt system, to which the platform may route the IRQ line (IRQ_ROUTE). -/
def hostIrq (p : Platform) (e : Engine) (n : Nat) : Bool := p.irqRoute == some n && irqLine e

end Sys2Proof.Machine
end

