-- ==== Sys2Proof/Machine/Operands.lean ====
section
/-! DEFINITION. Machine/Operands.lean: how bytes are packed into register words (rule R13), and how a command's operands are
assembled from the registers (rules R84, R164, R165, R179). -/

namespace Sys2Proof.Machine

/-- R13: byte j (0..3) of a word: bits 8j+7:8j. -/
def byteOfWord (w : Word) (j : Nat) : Byte := w.extractLsb' (8 * j) 8

/-- R13: `bytes(w)`: byte 4k+j is bits 8j+7:8j of word k. -/
def bytesOfWords {n : Nat} (ws : Vector Word n) : Vector Byte (4 * n) :=
  Vector.ofFn fun i : Fin (4 * n) => byteOfWord (ws[i.val / 4]'(by omega)) (i.val % 4)

/-- R13: `words(b)`: word k packs bytes 4k to 4k+3, the lowest index in the lowest bits. -/
def wordsOfBytes {n : Nat} (b : Vector Byte (4 * n)) : Vector Word n :=
  Vector.ofFn fun k : Fin n =>
    leWord (b[4 * k.val]'(by omega)) (b[4 * k.val + 1]'(by omega)) (b[4 * k.val + 2]'(by omega)) (b[4 * k.val + 3]'(by omega))

/-- R84: the key bytes, `bytes(KEY0..KEY7)`; with KEYLEN = 16 the expansion reads bytes 0 to 15 only (R36). -/
def keyBytes (e : Engine) : KeyBytes := bytesOfWords e.key

/-- R84: the input block, `bytes(DIN0..DIN3)`. -/
def inputBlock (e : Engine) : Block := bytesOfWords e.din

/-- R38: DOUT as the words of a block. -/
def outputWords (b : Block) : Vector Word 4 := wordsOfBytes (n := 4) b

/-- R35: RKw, word w of the schedule. -/
def rkWord (rks : Schedule) (w : Fin 60) : Word := (wordsOfBytes (n := 60) rks)[w]

/-- R164: `keylen_ok()`. -/
def keylenOk (e : Engine) : Bool := e.keylen == 16#8 || e.keylen == 32#8

/-- R165: `len_ok()`: "a positive multiple of 16". -/
def lenOk (e : Engine) : Bool := e.len != 0#32 && e.len.toNat % 16 == 0

/-- R84: the block count N = LEN div 16. -/
def blockCount (e : Engine) : Nat := e.len.toNat / 16

/-- R66: the address of byte j of a block. -/
def byteAddr (a : Addr) (j : Nat) : Addr := a + BitVec.ofNat 32 j

/-- R66, R179: the address of block i of a buffer, modulo 2^32. -/
def blockAddr (base : Addr) (i : Nat) : Addr := base + BitVec.ofNat 32 (16 * i)

/-- R66: address a lies in `[base, base + len)`, modulo 2^32. -/
def inRange (base : Addr) (len : Word) (a : Addr) : Bool := decide ((a - base).toNat < len.toNat)

/-- Address a lies in one of a claim's two ranges (R241). -/
def Claim.covers (c : Claim) (a : Addr) : Bool := inRange c.src c.len a || inRange c.dst c.len a

/-- R62: the buffer commands. -/
def isBufferCmd : Op → Bool
  | .cmd .ecbEncrypt => true
  | .cmd .encrypt => true
  | .cmd .nop => false
  | .cmd .expandKey => false
  | .cmd .encryptBlock => false
  | .cmd .clear => false
  | .illegal => false

/-- R81: the opcode that acceptance stores for a command word. -/
def opOfWord (v : Word) : Op :=
  match decode v with
  | .command i => .cmd i
  | .reservedBits => .illegal
  | .undefinedOp => .illegal

end Sys2Proof.Machine
end

