-- ==== Sys2Proof/Machine/RoundPipeline.lean ====
section
/-! DEFINITION. Machine/RoundPipeline.lean: the sub-block aes_round_pipeline (42_round_pipeline.md): the four round
operations and the block transform. State byte at row r and column c is byte 4c + r (R140). -/

namespace Sys2Proof.Machine

/-- R141: every byte through the S-box. -/
def subBytes (s : Block) : Block := s.map sbox

/-- R142: row r rotated left by r positions: byte 4c + r is byte 4((c + r) mod 4) + r. -/
def shiftRows (s : Block) : Block :=
  Vector.ofFn fun k : Fin 16 => s[4 * ((k.val / 4 + k.val % 4) % 4) + k.val % 4]

/-- R143: the four output bytes of one column (a0, a1, a2, a3), in order. -/
def mixColumn (a0 a1 a2 a3 : Byte) : KWord :=
  #v[xtime a0 ^^^ mul3 a1 ^^^ a2 ^^^ a3,
     a0 ^^^ xtime a1 ^^^ mul3 a2 ^^^ a3,
     a0 ^^^ a1 ^^^ xtime a2 ^^^ mul3 a3,
     mul3 a0 ^^^ a1 ^^^ a2 ^^^ xtime a3]

/-- Column c (0..3) of the State after MixColumns. -/
def mixedColumn (s : Block) (c : Fin 4) : KWord :=
  mixColumn s[4 * c.val] s[4 * c.val + 1] s[4 * c.val + 2] s[4 * c.val + 3]

/-- R143: MixColumns, each column on its own. -/
def mixColumns (s : Block) : Block := mixedColumn s 0 ++ mixedColumn s 1 ++ mixedColumn s 2 ++ mixedColumn s 3

/-- Byte i of a schedule; 0 beyond byte 239, which no rule reads (R146). -/
def rksByte (rks : Schedule) (i : Nat) : Byte := rks.toList.getD i 0#8

/-- R127: word i of a schedule: bytes 4i to 4i+3. -/
def rksWord (rks : Schedule) (i : Nat) : KWord :=
  #v[rksByte rks (4 * i), rksByte rks (4 * i + 1), rksByte rks (4 * i + 2), rksByte rks (4 * i + 3)]

/-- R129: round-key block r is bytes 16r to 16r+15. -/
def roundKey (rks : Schedule) (r : Nat) : Block := Vector.ofFn fun k : Fin 16 => rksByte rks (16 * r + k.val)

/-- R144: AddRoundKey with round-key block r, by explicit index (90_conflicts.md C5). -/
def addRoundKey (s : Block) (rks : Schedule) (r : Nat) : Block := Vector.zipWith (· ^^^ ·) s (roundKey rks r)

/-- R145: one middle round. -/
def middleRound (rks : Schedule) (s : Block) (r : Nat) : Block :=
  addRoundKey (mixColumns (shiftRows (subBytes s))) rks r

/-- R145: the final round, without MixColumns. -/
def finalRound (rks : Schedule) (s : Block) (r : Nat) : Block := addRoundKey (shiftRows (subBytes s)) rks r

/-- R146: the block transform: the initial AddRoundKey, the middle rounds 1 to R-1, the final round R. -/
def cipher (pt : Block) (rks : Schedule) (rounds : Nat) : Block :=
  finalRound rks ((List.range' 1 (rounds - 1)).foldl (middleRound rks) (addRoundKey pt rks 0)) rounds

end Sys2Proof.Machine
end

