-- ==== Sys2Proof/Machine/Ops.lean ====
section
/-! DEFINITION. Machine/Ops.lean: the named operations over the buffer memory (20_memory.md) and over the engine's registers:
acceptance, completion (which stands for taking an exception, rule R209), its acknowledgement (rule R211) and the updates of
the commands. -/

namespace Sys2Proof.Machine

/-! ## The buffer memory -/

/-- The byte at an address; an unlisted address reads as 0 (log entry 7). -/
def Memory.read : Memory → Nat → Byte
  | [], _ => 0#8
  | (k, b) :: m, a => if k = a then b else Memory.read m a

/-- Write one byte, keeping the addresses rising and no zero byte listed. -/
def Memory.write : Memory → Nat → Byte → Memory
  | [], a, b => if b = 0#8 then [] else [(a, b)]
  | (k, c) :: m, a, b =>
    if a < k then (if b = 0#8 then (k, c) :: m else (a, b) :: (k, c) :: m)
    else if a = k then (if b = 0#8 then m else (a, b) :: m)
    else (k, c) :: Memory.write m a b

/-- The canonical form from address `lo` on: addresses strictly rising, within the 2^32 of R61, no entry that an unlisted
address would read as. -/
def Memory.wfFrom : Nat → Memory → Bool
  | _, [] => true
  | lo, (k, b) :: m => decide (lo ≤ k) && decide (k < 2 ^ 32) && b != 0#8 && Memory.wfFrom (k + 1) m

/-- The canonical form of the buffer memory. -/
def Memory.wf (m : Memory) : Bool := Memory.wfFrom 0 m

/-- R61: whether a region of the memory map answers an access. -/
def Region.admits (r : Region) (a : Addr) (k : AccessKind) : Bool :=
  decide (r.lo ≤ a.toNat) && decide (a.toNat < r.lo + r.size) &&
    (match k with
     | .read => r.readable
     | .write => r.writable)

/-- R61: `MEM_OK(addr, kind)`. -/
def memOk (p : Platform) (a : Addr) (k : AccessKind) : Bool := p.memMap.any fun r => Region.admits r a k

/-- R70, R71: MEM_OK holds at all 16 addresses of the block at a. -/
def blockOk (p : Platform) (a : Addr) (k : AccessKind) : Bool := (List.range 16).all fun j => memOk p (byteAddr a j) k

/-- R67: the block at address a, its byte 0 at the lowest address. -/
def blockAt (m : Memory) (a : Addr) : Block := Vector.ofFn fun j : Fin 16 => m.read (byteAddr a j.val).toNat

/-- R70: `MemRead(a, 16)`; none is BUS_FAIL. -/
def memReadBlock (p : Platform) (m : Memory) (a : Addr) : Option Block :=
  if blockOk p a .read then some (blockAt m a) else none

/-- Write those bytes of v that `sel` selects to the block at a; the others keep their old value. -/
def writeSelected (m : Memory) (a : Addr) (v : Block) (sel : Nat → Bool) : Memory :=
  (List.finRange 16).foldl
    (fun m' j => if sel j.val then m'.write (byteAddr a j.val).toNat v[j.val] else m') m

/-- R71: the bytes a failed block write changes: at an address MEM_OK admits, old or new, byte by byte, a free draw. -/
def failedWriteSel (p : Platform) (a : Addr) (n : Nat) (j : Nat) : Bool :=
  memOk p (byteAddr a j) .write && Config.freeBit (n + j)

/-- Write bytes to consecutive addresses from a on, modulo 2^32 (R66). -/
def writeBytes : Memory → Addr → List Byte → Memory
  | m, _, [] => m
  | m, a, b :: bs => writeBytes (m.write a.toNat b) (a + 1#32) bs

/-- The n bytes at consecutive addresses from a on, modulo 2^32 (R66). -/
def readBytes (m : Memory) : Addr → Nat → List Byte
  | _, 0 => []
  | a, n + 1 => m.read a.toNat :: readBytes m (a + 1#32) n

/-! ## The engine's registers -/

/-- R160: the register part of `accept`. -/
def Engine.accept (e : Engine) (op : Op) : Engine :=
  { e with
    op := op
    phase := .start
    busy := true
    done := false
    errcode := .ok
    blk := 0
    blkcnt := if isBufferCmd op then 0#32 else e.blkcnt }

/-- R163, R209: completion, also written `raise <code>`: the engine's one way to end a command. It stands where a processor
takes an exception: the code is saved, the flags change, the sequencer goes to IDLE. "`finish` changes nothing else." -/
def Engine.finish (e : Engine) (code : ErrCode) : Engine :=
  { e with phase := .idle, busy := false, done := true, errcode := code }

/-- R211: the acknowledgement, a write of 1 to STATUS bit 1 (R28); it stands where a processor returns from an exception. -/
def Engine.ack (e : Engine) : Engine := { e with done := false }

/-- The sequencer moves to another phase (R12). -/
def Engine.enter (e : Engine) (p : Phase) : Engine := { e with phase := p }

/-- R166: ENCRYPT goes on to its blocks. -/
def Engine.enterBlocks (e : Engine) : Engine := { e with blk := 0, phase := .block }

/-- R166: a schedule and its round count are written, and KEYVALID is set. -/
def Engine.loadSchedule (e : Engine) (rks : Schedule) (rounds : BitVec 8) : Engine :=
  { e with rks := rks, rounds := rounds, keyvalid := true }

/-- R175: `clear_context()`. -/
def Engine.clearContext (e : Engine) : Engine :=
  { e with
    key := Vector.replicate 8 0#32
    din := Vector.replicate 4 0#32
    dout := Vector.replicate 4 0#32
    rks := Vector.replicate 240 0#8
    keyvalid := false
    rounds := 0#8 }

/-- R172: DOUT takes the words of the ciphertext block. -/
def Engine.setOutput (e : Engine) (ct : Block) : Engine := { e with dout := outputWords ct }

/-- R43, R140: after a transform the working State is the ciphertext block. -/
def Engine.setWork (e : Engine) (ct : Block) : Engine := { e with work := ct }

/-- R167: block i is written: BLKCNT and the block index become i + 1. -/
def Engine.countBlock (e : Engine) (i : Nat) : Engine := { e with blkcnt := BitVec.ofNat 32 (i + 1), blk := i + 1 }

/-- R26: CTRL.IE. -/
def Engine.setIe (e : Engine) (b : Bool) : Engine := { e with ie := b }

/-- R29: KEYLEN. -/
def Engine.setKeylen (e : Engine) (v : BitVec 8) : Engine := { e with keylen := v }

/-- R30: LEN. -/
def Engine.setLen (e : Engine) (v : Word) : Engine := { e with len := v }

/-- R31: SRC. -/
def Engine.setSrc (e : Engine) (v : Word) : Engine := { e with src := v }

/-- R32: DST. -/
def Engine.setDst (e : Engine) (v : Word) : Engine := { e with dst := v }

/-- R36: KEYk. -/
def Engine.setKey (e : Engine) (k : Fin 8) (v : Word) : Engine := { e with key := e.key.set k.val v }

/-- R37: DINk. -/
def Engine.setDin (e : Engine) (k : Fin 4) (v : Word) : Engine := { e with din := e.din.set k.val v }

/-- R146: the block transform with the schedule and the rounds the engine holds. -/
def Engine.transform (e : Engine) (pt : Block) : Block := cipher pt e.rks e.rounds.toNat

/-! ## The machine -/

/-- Replace the engine's state. -/
def State.setEng (s : State) (e : Engine) : State := { s with eng := e }

/-- Replace the buffer memory. -/
def State.setMem (s : State) (m : Memory) : State := { s with mem := m }

/-- Replace the host. -/
def State.setHost (s : State) (h : HostAgent) : State := { s with host := h }

/-- Replace the turns still to come. -/
def State.setTurns (s : State) (ts : List Agent) : State := { s with turns := ts }

/-- Replace the ranges the host may not touch. -/
def State.setOwned (s : State) (cs : List Claim) : State := { s with owned := cs }

/-- Count n more free values as drawn (log entry 3). -/
def State.draw (s : State) (n : Nat) : State := { s with draws := s.draws + n }

/-- R163: completion of the running command. -/
def State.finish (s : State) (code : ErrCode) : State := s.setEng (s.eng.finish code)

/-- The ranges an acceptance claims for the engine (R241): those of a buffer command, as its registers stand. -/
def acceptClaims (e : Engine) (op : Op) (cs : List Claim) : List Claim :=
  if isBufferCmd op then { src := e.src, dst := e.dst, len := e.len } :: cs else cs

/-- R160: acceptance of the command word v. -/
def State.accept (s : State) (v : Word) : State :=
  (s.setEng (s.eng.accept (opOfWord v))).setOwned (acceptClaims s.eng (opOfWord v) s.owned)

/-- R71: `MemWrite(a, 16, v)`; false is BUS_FAIL. A failed write draws 16 free bits. -/
def State.memWriteBlock (s : State) (a : Addr) (v : Block) : Bool × State :=
  if blockOk s.cfg a .write then (true, s.setMem (writeSelected s.mem a v fun _ => true))
  else (false, (s.setMem (writeSelected s.mem a v (failedWriteSel s.cfg a s.draws))).draw 16)

/-- R206: a host access to n bytes from a on touches a range the engine owns. -/
def State.races (s : State) (a : Addr) (n : Nat) : Bool :=
  (List.range n).any fun j => s.owned.any fun c => c.covers (byteAddr a j)

/-- R63: buffer address a is one that MEM_OK admits and at which the platform maps the register window. -/
def inWindow (p : Platform) (a : Addr) : Bool :=
  match p.windowAt with
  | none => false
  | some w => inRange w 1024#32 a && (memOk p a .read || memOk p a .write)

/-- R207: a source or destination range covers an address of the engine's own register window. -/
def aliases (p : Platform) (e : Engine) : Bool :=
  e.len != 0#32 &&
    match p.windowAt with
    | none => false
    | some w =>
      (List.range 1024).any fun j =>
        let a := byteAddr w j
        inWindow p a && (inRange e.src e.len a || inRange e.dst e.len a)

/-- R231: the destination block RESET may find half written: in the BLOCK phase, block st.blk when st.blk < LEN div 16. The
value under way is the ciphertext of its source block, if that can be read (log entry 11). -/
def resetMem (s : State) : Memory :=
  if s.eng.phase = .block ∧ s.eng.blk < blockCount s.eng then
    match memReadBlock s.cfg s.mem (blockAddr s.eng.src s.eng.blk) with
    | none => s.mem
    | some pt =>
      writeSelected s.mem (blockAddr s.eng.dst s.eng.blk) (s.eng.transform pt) fun j => Config.freeBit (s.draws + j)
  else s.mem

/-- R230, R231: the RESET event: every engine register and field at its reset value, no completion, and nothing of the buffer
memory changed but the block under way. The host and the platform are not the engine's. -/
def resetEvent (s : State) : State :=
  (((s.setMem (resetMem s)).setEng Engine.reset).setOwned []).draw 16

end Sys2Proof.Machine
end

