-- ==== Sys2Proof/Machine/Sequencer.lean ====
section
/-! DEFINITION. Machine/Sequencer.lean: the ENGINE steps that commands share (rules R161, R166, R167,
43_ecb_controller.md). Each is one atomic step; none faults or refuses (R204). -/

namespace Sys2Proof.Machine

/-- R166: the schedule and round count the EXPAND step computes from KEYLEN and the KEY registers. -/
def Engine.expansion (p : Platform) (e : Engine) : Schedule × BitVec 8 :=
  keyScheduleExpander p.ks256Mode (keyBytes e) (e.keylen != 16#8)

/-- R166: `expand_step()`. -/
def State.expandStep (s : State) : State :=
  let x := s.eng.expansion s.cfg
  let e := s.eng.loadSchedule x.1 x.2
  if s.eng.op = .cmd .expandKey then s.setEng (e.finish .ok) else s.setEng e.enterBlocks

/-- R167: the end of a block whose write succeeded: count it, and finish after the last. -/
def Engine.blockDone (e : Engine) (ct : Block) : Engine :=
  let e' := (e.setWork ct).countBlock e.blk
  if e.blk + 1 = blockCount e then e'.finish .ok else e'

/-- R167: the write of the ciphertext block, after the source block pt was read. -/
def State.blockWrite (s : State) (pt : Block) : State :=
  let ct := s.eng.transform pt
  match s.memWriteBlock (blockAddr s.eng.dst s.eng.blk) ct with
  | (true, s') => s'.setEng (s.eng.blockDone ct)
  | (false, s') => s'.setEng ((s.eng.setWork ct).finish .busError)

/-- R167: `block_step()`. -/
def State.blockStep (s : State) : State :=
  match memReadBlock s.cfg s.mem (blockAddr s.eng.src s.eng.blk) with
  | none => s.finish .busError
  | some pt => s.blockWrite pt

/-- R161: `engine_step()`, with the START step of one command. In IDLE the ENGINE has no enabled step: nothing changes (R220; log entry 13). -/
def State.runPhase (s : State) (start : State → State) : State :=
  match s.eng.phase with
  | .idle => s
  | .start => start s
  | .expand => s.expandStep
  | .block => s.blockStep

/-- R162: START goes to another phase. -/
def State.goTo (s : State) (p : Phase) : State := s.setEng (s.eng.enter p)

end Sys2Proof.Machine
end

