-- ==== Sys2Proof/Machine/Context.lean ====
section
/-! DEFINITION. Machine/Context.lean: the commands that use no buffer and no block: NOP (R170), EXPAND_KEY (R171) and
CLEAR (R175). Each meaning is one ENGINE step of the command in the phase it is in (R161). -/

namespace Sys2Proof.Machine

/-- R162, R170: the START step of NOP. -/
def startNop (s : State) : State := s.finish .ok

/-- R170: NOP. -/
def execNop (s : State) : Host.Outcome State Fault Refusal := .next (s.runPhase startNop)

/-- R162, R171: the START step of EXPAND_KEY. -/
def startExpandKey (s : State) : State :=
  if keylenOk s.eng then s.goTo .expand else s.finish .invalidKeyLength

/-- R171: EXPAND_KEY. -/
def execExpandKey (s : State) : Host.Outcome State Fault Refusal := .next (s.runPhase startExpandKey)

/-- R162, R175: the START step of CLEAR. -/
def startClear (s : State) : State := s.setEng (s.eng.clearContext.finish .ok)

/-- R175: CLEAR. -/
def execClear (s : State) : Host.Outcome State Fault Refusal := .next (s.runPhase startClear)

end Sys2Proof.Machine
end

