-- ==== Sys2Proof/Machine/Encrypt.lean ====
section
/-! DEFINITION. Machine/Encrypt.lean: the commands that encrypt: ENCRYPT_BLOCK (R172), ECB_ENCRYPT (R173) and ENCRYPT (R174).
Each meaning is one ENGINE step of the command in the phase it is in (R161). The order of the checks is R203's. -/

namespace Sys2Proof.Machine

/-- R172: DIN encrypted into DOUT with the held schedule. -/
def Engine.encryptDin (e : Engine) : Engine :=
  let ct := e.transform (inputBlock e)
  (e.setOutput ct).setWork ct

/-- R162, R172: the START step of ENCRYPT_BLOCK. -/
def startEncryptBlock (s : State) : State :=
  if s.eng.keyvalid then s.setEng (s.eng.encryptDin.finish .ok) else s.finish .missingInput

/-- R172: ENCRYPT_BLOCK. -/
def execEncryptBlock (s : State) : Host.Outcome State Fault Refusal := .next (s.runPhase startEncryptBlock)

/-- R162, R173: the START step of ECB_ENCRYPT. -/
def startEcbEncrypt (s : State) : State :=
  if !s.eng.keyvalid then s.finish .missingInput
  else if !lenOk s.eng then s.finish .invalidBufferLength
  else s.goTo .block

/-- R173: ECB_ENCRYPT. -/
def execEcbEncrypt (s : State) : Host.Outcome State Fault Refusal := .next (s.runPhase startEcbEncrypt)

/-- R162, R174: the START step of ENCRYPT. -/
def startEncrypt (s : State) : State :=
  if !keylenOk s.eng then s.finish .invalidKeyLength
  else if !lenOk s.eng then s.finish .invalidBufferLength
  else s.goTo .expand

/-- R174: ENCRYPT. -/
def execEncrypt (s : State) : Host.Outcome State Fault Refusal := .next (s.runPhase startEncrypt)

end Sys2Proof.Machine
end

