-- ==== Sys2Proof/Machine/Dispatch.lean ====
section
/-! DEFINITION. Machine/Dispatch.lean: the meaning of each command, one arm per constructor (rules R162, R170 to R175). -/

namespace Sys2Proof.Machine

def exec (i : Instr) (s : State) : Host.Outcome State Fault Refusal :=
  match i with
  | .nop => Sys2Proof.Machine.execNop s
  | .expandKey => Sys2Proof.Machine.execExpandKey s
  | .encryptBlock => Sys2Proof.Machine.execEncryptBlock s
  | .ecbEncrypt => Sys2Proof.Machine.execEcbEncrypt s
  | .encrypt => Sys2Proof.Machine.execEncrypt s
  | .clear => Sys2Proof.Machine.execClear s

end Sys2Proof.Machine
end

