-- ==== Sys2Proof/Machine/EngineAgent.lean ====
section
/-! DEFINITION. Machine/EngineAgent.lean: the ENGINE agent (rules R20, R161) and the illegal command (rule R176). -/

namespace Sys2Proof.Machine

/-- R162, R176: the START step of an illegal command. -/
def startIllegal (s : State) : State := s.finish .illegalCommand

/-- R176: the illegal command. It is no row of the opcode table, so it is no constructor of Instr, but it runs: it is accepted
and completes with ILLEGAL_COMMAND (R83). -/
def execIllegal (s : State) : Host.Outcome State Fault Refusal := .next (s.runPhase startIllegal)

/-- R161: "The ENGINE agent has an enabled step exactly when `st.phase ≠ IDLE`." -/
def engineEnabled (s : State) : Bool := s.eng.phase != .idle

/-- R161: one ENGINE step: the running command's. -/
def engineStep (s : State) : Host.Outcome State Fault Refusal :=
  match s.eng.op with
  | .cmd i => exec i s
  | .illegal => execIllegal s

end Sys2Proof.Machine
end

