-- ==== Sys2Proof/Machine/RegMap.lean ====
section
/-! DEFINITION. Machine/RegMap.lean: the host's register window (rules R23 to R40, 10_state.md): which register an offset
names, what a read returns and does, what a write does. -/

namespace Sys2Proof.Machine

/-- R24: the registers of the map; every other aligned offset of the window is reserved (R25). -/
inductive Reg where
  | ctrl
  | cmd
  | status
  | keylen
  | len
  | src
  | dst
  | blkcnt
  | key (k : Fin 8)
  | din (k : Fin 4)
  | dout (k : Fin 4)
  | rk (w : Fin 60)
  | reserved
  deriving DecidableEq, Repr

/-- R24: the register at word index w (offset 4w) of the window. -/
def regAtIndex (w : Nat) : Reg :=
  if w < 8 then
    match w with
    | 0 => .ctrl
    | 1 => .cmd
    | 2 => .status
    | 3 => .keylen
    | 4 => .len
    | 5 => .src
    | 6 => .dst
    | _ => .blkcnt
  else if h : 8 ≤ w ∧ w < 16 then .key ⟨w - 8, by omega⟩
  else if h : 16 ≤ w ∧ w < 20 then .din ⟨w - 16, by omega⟩
  else if h : 20 ≤ w ∧ w < 24 then .dout ⟨w - 20, by omega⟩
  else if h : 64 ≤ w ∧ w < 124 then .rk ⟨w - 64, by omega⟩
  else .reserved

/-- R24: the register at an aligned offset. -/
def regAt (off : Nat) : Reg := regAtIndex (off / 4)

/-- The value a read of a register returns while the engine is idle, and of the registers of R40's first sentence at any
time. CMD has no storage and reads as 0 (R27); a reserved offset reads as 0 (R25). -/
def regValue (e : Engine) : Reg → Word
  | .ctrl => ctrlWord e
  | .cmd => 0#32
  | .status => statusWord e
  | .keylen => e.keylen.setWidth 32
  | .len => e.len
  | .src => e.src
  | .dst => e.dst
  | .blkcnt => e.blkcnt
  | .key k => e.key[k.val]
  | .din k => e.din[k.val]
  | .dout k => e.dout[k.val]
  | .rk w => rkWord e.rks w
  | .reserved => 0#32

/-- R40: the registers whose reads are any value while a command runs. -/
def Reg.freeWhenBusy : Reg → Bool
  | .dout _ => true
  | .rk _ => true
  | .ctrl => false
  | .cmd => false
  | .status => false
  | .keylen => false
  | .len => false
  | .src => false
  | .dst => false
  | .blkcnt => false
  | .key _ => false
  | .din _ => false
  | .reserved => false

/-- R240, R241: the host that has read STATUS with BUSY = 0 or DONE = 1 has observed completion (log entry 5). -/
def observed (e : Engine) (cs : List Claim) : List Claim := if !e.busy || e.done then [] else cs

/-- R23, R40: a register read: the value, and the state after it. "No register read has a side effect" on the engine (R69);
the model's own fields record a free draw and an observed completion. -/
def State.regRead (s : State) (r : Reg) : Word × State :=
  if r.freeWhenBusy && s.eng.busy then (Config.freeWord s.draws, s.draw 1)
  else if r = .status then (regValue s.eng r, s.setOwned (observed s.eng s.owned))
  else (regValue s.eng r, s)

/-- R27, R160, R207: a write to CMD: ignored while a command runs (BUSY, log entry 17); else accepted, unless a buffer command would run over the
register window. -/
def State.writeCmd (s : State) (v : Word) : Host.Outcome State Fault Refusal :=
  if s.eng.busy then .next s
  else if isBufferCmd (opOfWord v) && aliases s.cfg s.eng then .fault .bufferAlias
  else .next (s.accept v)

/-- R24, R39: what a write does to the registers other than CMD: CTRL and STATUS at any time, the operand registers only
while no command runs, a read-only register or a reserved offset never. -/
def Engine.regWrite (e : Engine) (r : Reg) (v : Word) : Engine :=
  match r with
  | .ctrl => e.setIe (v.getLsbD 0)
  | .status => if v.getLsbD 1 then e.ack else e
  | .keylen => if e.busy then e else e.setKeylen (v.extractLsb' 0 8)
  | .len => if e.busy then e else e.setLen v
  | .src => if e.busy then e else e.setSrc v
  | .dst => if e.busy then e else e.setDst v
  | .key k => if e.busy then e else e.setKey k v
  | .din k => if e.busy then e else e.setDin k v
  | .cmd => e
  | .blkcnt => e
  | .dout _ => e
  | .rk _ => e
  | .reserved => e

/-- R23: a 32-bit register write. -/
def State.regWrite (s : State) (r : Reg) (v : Word) : Host.Outcome State Fault Refusal :=
  if r = .cmd then s.writeCmd v else .next (s.setEng (s.eng.regWrite r v))

/-- R23: the offset of a host address in the 1024-byte window at BASE, if it lies there. -/
def windowOffset (p : Platform) (a : Nat) : Option Nat :=
  if p.base ≤ a ∧ a < p.base + 1024 then some (a - p.base) else none

/-- R23: the accesses that are supported: 32 bits, at a multiple of 4. -/
def accessOk (bits off : Nat) : Bool := bits == 32 && off % 4 == 0

/-- A host write at host address a. Outside the window it does not reach the engine (log entry 12). -/
def State.busWrite (s : State) (bits a : Nat) (v : Word) : Host.Outcome State Fault Refusal :=
  match windowOffset s.cfg a with
  | none => .next s
  | some off => if accessOk bits off then s.regWrite (regAt off) v else .fault .hostAccess

/-- A host read at host address a: the value and the state after it, or none for the fault of R205. Outside the window it does
not reach the engine, and the value is free (log entry 12). -/
def State.busRead (s : State) (bits a : Nat) : Option (Word × State) :=
  match windowOffset s.cfg a with
  | none => some (Config.freeWord s.draws, s.draw 1)
  | some off => if accessOk bits off then some (s.regRead (regAt off)) else none

end Sys2Proof.Machine
end

