-- ==== Sys2Proof/Machine/HostAgentStep.lean ====
section
/-! DEFINITION. Machine/HostAgentStep.lean: the HOST agent (rules R20, R64, R87): one statement of its program a step. -/

namespace Sys2Proof.Machine

/-- The value bound to a name. -/
def lookup : List (Nat × HostVal) → Nat → Option HostVal
  | [], _ => none
  | (y, v) :: env, x => if y = x then some v else lookup env x

/-- `v[hi:lo]` (R9). -/
def fieldOf (v : Word) (hi lo : Nat) : Nat := v.toNat / 2 ^ lo % 2 ^ (hi + 1 - lo)

/-- R87: a condition on bound names; none if a name is not bound, or bound to the other kind of value (log entry 14). -/
def evalCond (env : List (Nat × HostVal)) : Cond → Option Bool
  | .field x hi lo v =>
    match lookup env x with
    | some (.word w) => some (fieldOf w hi lo == v)
    | some (.bytes _) => none
    | none => none
  | .bytesAre x bs =>
    match lookup env x with
    | some (.bytes b) => some (b == bs)
    | some (.word _) => none
    | none => none
  | .neg c => (evalCond env c).map not
  | .both a b =>
    match evalCond env a, evalCond env b with
    | some p, some q => some (p && q)
    | _, _ => none
  | .either a b =>
    match evalCond env a, evalCond env b with
    | some p, some q => some (p || q)
    | _, _ => none

/-- The host's next statement; none after `END` (R89), nor past the end of the text. -/
def HostAgent.current (h : HostAgent) : Option HostStmt :=
  match h.run with
  | .running => h.prog[h.pc]?
  | .ended => .none
  | .endedBusy => .none

/-- The host goes on to statement n of its program. -/
def HostAgent.jump (h : HostAgent) (n : Nat) : HostAgent := { h with pc := n }

/-- The host goes on to the next statement. -/
def HostAgent.advance (h : HostAgent) : HostAgent := h.jump (h.pc + 1)

/-- R87: a value is bound to a name. -/
def HostAgent.bind (h : HostAgent) (x : Nat) (v : HostVal) : HostAgent := { h with env := (x, v) :: h.env }

/-- R89: the program takes `END`, with STATUS.BUSY as it then is (log entry 21). -/
def HostAgent.finish (h : HostAgent) (busy : Bool) : HostAgent := { h with run := if busy then .endedBusy else .ended }

/-- The HOST has an enabled step while it has a statement; `END` is its last. -/
def hostEnabled (s : State) : Bool := s.host.current.isSome

/-- The host's part of a step that goes on to the next statement. -/
def State.hostAdvance (s : State) : State := s.setHost s.host.advance

/-- The host's part of a step that binds a value and goes on. -/
def State.hostBind (s : State) (x : Nat) (v : HostVal) : State := s.setHost (s.host.bind x v).advance

/-- The host goes on after the access that leads to the outcome o. -/
def advanceAfter (o : Host.Outcome State Fault Refusal) : Host.Outcome State Fault Refusal :=
  match o with
  | .next s => .next s.hostAdvance
  | .fault f => .fault f
  | .refused r => .refused r

/-- R87: `W off, v`. -/
def hostWrite (bits off : Nat) (v : Word) (s : State) : Host.Outcome State Fault Refusal :=
  advanceAfter (s.busWrite bits (s.cfg.base + off) v)

/-- R87: `R off -> x`. -/
def hostRead (bits off x : Nat) (s : State) : Host.Outcome State Fault Refusal :=
  match s.busRead bits (s.cfg.base + off) with
  | none => .fault .hostAccess
  | some (v, s') => .next (s'.hostBind x (.word v))

/-- R64, R87: `MW a, <bytes>`, in one step (log entry 9); a byte the engine owns is the fault of R206. -/
def hostMemWrite (a : Addr) (bs : List Byte) (s : State) : Host.Outcome State Fault Refusal :=
  if s.races a bs.length then .fault .hostBufferRace
  else .next (s.setMem (writeBytes s.mem a bs)).hostAdvance

/-- R64, R87: `MR a, n -> x`, in one step (log entry 9); a byte the engine owns is the fault of R206. -/
def hostMemRead (a : Addr) (n x : Nat) (s : State) : Host.Outcome State Fault Refusal :=
  if s.races a n then .fault .hostBufferRace
  else .next (s.hostBind x (.bytes (readBytes s.mem a n)))

/-- R87: `IF <condition> GOTO L`. -/
def hostIf (c : Cond) (l : Nat) (s : State) : Host.Outcome State Fault Refusal :=
  match evalCond s.host.env c with
  | none => .refused .unboundName
  | some false => .next s.hostAdvance
  | some true =>
    match labelAt s.host.prog l with
    | none => .refused (.undefinedLabel l)
    | some n => .next (s.setHost (s.host.jump n))

/-- R210, R240: the host samples an input of its interrupt system; one that is high because of IRQ is an observed
completion (log entries 5 and 6). -/
def hostSampleIrq (n x : Nat) (s : State) : Host.Outcome State Fault Refusal :=
  let high := hostIrq s.cfg s.eng n
  .next ((s.setOwned (if high then [] else s.owned)).hostBind x (.word (bit high)))

/-- R89: `END`. It stops the host and nothing else. -/
def hostEnd (s : State) : Host.Outcome State Fault Refusal := .next (s.setHost (s.host.finish s.eng.busy))

/-- R87: one statement. -/
def hostStmtStep (st : HostStmt) (s : State) : Host.Outcome State Fault Refusal :=
  match st with
  | .write bits off v => hostWrite bits off v s
  | .read bits off x => hostRead bits off x s
  | .memWrite a bs => hostMemWrite a bs s
  | .memRead a n x => hostMemRead a n x s
  | .label _ => .next s.hostAdvance
  | .ifGoto c l => hostIf c l s
  | .irq n x => hostSampleIrq n x s
  | .stop => hostEnd s

/-- One HOST step: the statement at the host's position; there is none after `END` (R89). -/
def hostStep (s : State) : Host.Outcome State Fault Refusal :=
  match s.host.current with
  | none => .next s
  | some st => hostStmtStep st s

/-- R89: the state is an end state of the host's program: it took `END` with BUSY = 0, and BUSY is 0. A program that took `END` with
BUSY = 1 has none, also when the ENGINE has finished (U11). DESIGN CHOICE (log entry 22): R89 does not say what a RESET after `END` does to the end
state; here the program stays ended, and the state RESET leaves is an end state too where the one before it was. -/
def State.ended (s : State) : Bool := s.host.run == .ended && !s.eng.busy

end Sys2Proof.Machine
end

