-- ==== Sys2Proof/Machine/Turns.lean ====
section
/-! DEFINITION. Machine/Turns.lean: which agent takes the next step (rule R20, item U9). -/

namespace Sys2Proof.Machine

/-- The step of one agent. An agent with no enabled step leaves everything as it is. -/
def agentStep (a : Agent) (s : State) : Host.Outcome State Fault Refusal :=
  match a with
  | .host => hostStep s
  | .engine => engineStep s
  | .reset => .next (resetEvent s)

/-- The step when the state names no turn: the one enabled agent's; if both are enabled the order is free (R20); if none is,
nothing changes (R220). -/
def openStep (s : State) : Host.Outcome State Fault Refusal :=
  match hostEnabled s, engineEnabled s with
  | false, false => .next s
  | true, false => hostStep s
  | false, true => engineStep s
  | true, true => if Config.hostFirst s.draws then hostStep (s.draw 1) else engineStep (s.draw 1)

/-- R20: one step of the machine. -/
def turnStep (s : State) : Host.Outcome State Fault Refusal :=
  match s.turns with
  | [] => openStep s
  | a :: ts => agentStep a (s.setTurns ts)

/-- The state in which the command word v has just been accepted (R160) and the ENGINE moves next. -/
def State.placeCommand (s : State) (v : Word) : State := (s.accept v).setTurns (.engine :: s.turns)

end Sys2Proof.Machine
end

