-- ==== Sys2Proof/Machine/Step.lean ====
section
/-! DEFINITION. Machine/Step.lean: the one step of the machine (rule R20), and a command placed for it (rule R160). -/

namespace Sys2Proof.Machine

/-- One step of the machine: one step of one agent (R20). -/
def step (s : State) : Host.Outcome State Fault Refusal := turnStep s

/-- The command of the opcode-table word `w`, accepted (R160), with the ENGINE to move next: it stands for the host's CMD
write, so that `step` runs the command's START step (log entry 10). -/
def State.withFetchWord (s : State) (nbits w : Nat) : State := s.placeCommand (tableWord nbits w)

end Sys2Proof.Machine
end

