-- ==== Sys2Proof/Machine/Invariant.lean ====
section
/-! DEFINITION. Machine/Invariant.lean: what the rules say holds of the state at all times (rules R41, R42, R28, R33, R124,
R61, R241). -/

namespace Sys2Proof.Machine

/-- R41: "`st.busy = 1` exactly when `st.phase ≠ IDLE`". R28, R160: while a command runs, DONE and ERRCODE are 0. -/
def Engine.flagsInv (e : Engine) : Prop :=
  (e.busy = true ↔ e.phase ≠ .idle) ∧ (e.busy = true → e.done = false ∧ e.errcode = .ok)

/-- R41, R160, R162, R167: what holds in each phase of the sequencer: before the first block the index is 0, and so is BLKCNT
for a buffer command; EXPAND is reached only by EXPAND_KEY and ENCRYPT with their
checks passed, BLOCK only by a buffer command with its check passed and a schedule held, at a block the buffer has. -/
def Engine.phaseInv (e : Engine) : Prop :=
  match e.phase with
  | .idle => True
  | .start => e.blk = 0 ∧ (isBufferCmd e.op = true → e.blkcnt = 0#32)
  | .expand =>
    e.blk = 0 ∧ (isBufferCmd e.op = true → e.blkcnt = 0#32) ∧ keylenOk e = true ∧ (e.op = .cmd .expandKey ∨ e.op = .cmd .encrypt ∧ lenOk e = true)
  | .block =>
    isBufferCmd e.op = true ∧ lenOk e = true ∧ e.keyvalid = true ∧ e.blk < blockCount e ∧
      e.blkcnt = BitVec.ofNat 32 e.blk

/-- R41: `st.blk` is "a natural from 0 to 0x0FFFFFFF". -/
def Engine.blkInv (e : Engine) : Prop := e.blk ≤ 0x0FFFFFFF

/-- R42, R124, R175: with a schedule held, ROUNDS is 10 (and the last 64 bytes of the file are 0) or 14; with none held,
ROUNDS is 0 and the file is zero. -/
def Engine.keyInv (e : Engine) : Prop :=
  if e.keyvalid then
    e.rounds = 14#8 ∨ e.rounds = 10#8 ∧ ∀ i : Fin 240, 176 ≤ i.val → e.rks[i] = 0#8
  else e.rounds = 0#8 ∧ e.rks = Vector.replicate 240 0#8

/-- What holds of the engine's own state. -/
def Engine.Inv (e : Engine) : Prop := e.flagsInv ∧ e.phaseInv ∧ e.blkInv ∧ e.keyInv

/-- R241: while a buffer command runs, its ranges are the engine's. -/
def State.claimInv (s : State) : Prop :=
  s.eng.phase ≠ .idle → isBufferCmd s.eng.op = true →
    { src := s.eng.src, dst := s.eng.dst, len := s.eng.len } ∈ s.owned

/-- What holds of the machine: the engine's invariant, the canonical form of the buffer memory, and the running command's
ranges. -/
def State.Inv (s : State) : Prop := s.eng.Inv ∧ s.mem.wf = true ∧ s.claimInv

end Sys2Proof.Machine
end

