-- ==== Sys2Proof/Safety.lean ====
section
/-! DEFINITION. Safety.lean: the terms the claims use: a run without a fault, buffers the memory answers for, ranges that do
not overlap, and one block of 16 addresses (rules R208, R233, R169, R66). -/

namespace Sys2Proof.Machine

/-- R208, U8: "every claim assumes no fault is recorded". -/
def Unfaulted (o : Host.Outcome State Fault Refusal) : Prop := ∀ f, o ≠ .fault f

/-- R233 (3): MEM_OK is true on the buffers the registers name. -/
def Engine.buffersOk (p : Platform) (e : Engine) : Prop :=
  ∀ i, i < blockCount e → blockOk p (blockAddr e.src i) .read = true ∧ blockOk p (blockAddr e.dst i) .write = true

/-- R169: the source and destination ranges do not overlap. -/
def Engine.rangesApart (e : Engine) : Prop := ∀ a, inRange e.src e.len a = true → inRange e.dst e.len a = false

/-- Address a is one of the 16 addresses of the block at b. -/
def InBlock (b a : Addr) : Prop := ∃ j, j < 16 ∧ a = byteAddr b j

/-- The memories hold the same byte at address a. -/
def SameByte (m m' : Memory) (a : Addr) : Prop := m'.read a.toNat = m.read a.toNat

/-- R167, R168: the buffer blocks the registers name are the engine's transform of those of another memory. -/
def EncryptsBuffer (e : Engine) (rks : Schedule) (rounds : Nat) (m m' : Memory) : Prop :=
  ∀ i, i < blockCount e → blockAt m' (blockAddr e.dst i) = cipher (blockAt m (blockAddr e.src i)) rks rounds

end Sys2Proof.Machine
end

