-- ==== Sys2Proof/Certificates/Slice0/Obligations.lean ====
section
/-! DEFINITION. Certificates/Slice0/Obligations.lean: the statements for the provers, from the numbered rules of spec/.
Where a statement leaves the working State open (`work := t.eng.work`) it claims nothing of that field (R43).
`s.turns = .host :: ts` says that the next step is one of the HOST, and so for ENGINE and RESET: the turns are the model's own
field (log entry 2). A free value (Config.freeWord, Config.freeBit) may be any (log entry 3). -/

open Sys2Proof Sys2Proof.Machine

/-! ## Encoding (30_encoding.md) -/

/-- R82, R83: the six words of the opcode map, and seven illegal words of 95_test_vectors.md 2.7. -/
def Obligations.CommandWordsDecode : Prop :=
  decode 0x00000000#32 = .command .nop ∧ decode 0x00000001#32 = .command .expandKey ∧
  decode 0x00000002#32 = .command .encryptBlock ∧ decode 0x00000003#32 = .command .ecbEncrypt ∧
  decode 0x00000004#32 = .command .encrypt ∧ decode 0x00000005#32 = .command .clear ∧
  decode 0x00000006#32 = .undefinedOp ∧ decode 0x00000007#32 = .undefinedOp ∧ decode 0x0000000F#32 = .undefinedOp ∧
  decode 0x00000010#32 = .reservedBits ∧ decode 0x00000011#32 = .reservedBits ∧
  decode 0x80000003#32 = .reservedBits ∧ decode 0xFFFFFFFF#32 = .reservedBits

/-- R82: decoding an encoded well-formed command gives it back, and its word is well formed. -/
def Obligations.DecodeOfEncodeIsTheCommand : Prop :=
  ∀ i : Instr, i.wf = true → decode (encode i) = .command i ∧ CommandWord.wf (encode i) = true

/-- R81: over all 32-bit words: a word decodes to a command exactly when it is that command's word; a word is illegal exactly when
it is above 5, for the reason its fields give; and acceptance stores the decoded value, ILLEGAL for exactly those. -/
def Obligations.DecodeMatchesTheOpcodeMap : Prop :=
  (encode .nop = 0x0#32 ∧ encode .expandKey = 0x1#32 ∧ encode .encryptBlock = 0x2#32 ∧ encode .ecbEncrypt = 0x3#32 ∧
    encode .encrypt = 0x4#32 ∧ encode .clear = 0x5#32) ∧
  (∀ (v : Word) (i : Instr), decode v = .command i ↔ v = encode i) ∧
  (∀ (s : State) (v : Word) (i : Instr), (s.accept v).eng.op = .cmd i ↔ v = encode i) ∧
  (∀ (s : State) (v : Word), (s.accept v).eng.op = .illegal ↔ 5 < v.toNat) ∧
  (∀ v : Word, decode v = .reservedBits ↔ 16 ≤ v.toNat) ∧
  (∀ v : Word, decode v = .undefinedOp ↔ 5 < v.toNat ∧ v.toNat < 16) ∧
  (∀ v : Word, CommandWord.wf v = true ↔ v.toNat ≤ 5)

/-! ## The step (10_state.md section 1, 43_ecb_controller.md section 1) -/

/-- R161: the ENGINE's step is one step of the accepted command; the machine adds only the turn it consumes. A command word
that decodes to a command makes it the accepted one (R160). -/
def Obligations.StepRunsTheAcceptedCommand : Prop :=
  (∀ (s : State) (i : Instr) (ts : List Agent), s.turns = .engine :: ts → s.eng.op = .cmd i →
    step s = exec i { s with turns := ts }) ∧
  (∀ (s : State) (i : Instr), s.turns = [] → hostEnabled s = false → s.eng.phase ≠ .idle → s.eng.op = .cmd i →
    step s = exec i s) ∧
  (∀ (s : State) (ts : List Agent), s.turns = .engine :: ts → s.eng.op = .illegal →
    step s = execIllegal { s with turns := ts }) ∧
  (∀ (s : State) (v : Word) (i : Instr), decode v = .command i → (s.accept v).eng.op = .cmd i) ∧
  (∀ (s : State) (w : Nat) (i : Instr), decodeTableWord 32 w = some i →
    step (s.withFetchWord 32 w) = exec i (s.accept (tableWord 32 w)))

/-- R161, R220: in IDLE the ENGINE has no enabled step and all state is kept, by each command's meaning and by the machine. -/
def Obligations.IdleEngineKeepsAllState : Prop :=
  (∀ (s : State) (i : Instr), s.eng.phase = .idle → exec i s = .next s) ∧
  (∀ s : State, s.eng.phase = .idle → execIllegal s = .next s) ∧
  (∀ s : State, s.turns = [] → hostEnabled s = false → s.eng.phase = .idle → step s = .next s)

/-- R178: every ENGINE step of a command answers a next state, and the sequencer makes these transfers and no others. -/
def Obligations.SequencerTransfers : Prop :=
  ∀ (s : State) (i : Instr), ∃ t, exec i s = .next t ∧
    (s.eng.phase = .start → t.eng.phase = .expand ∨ t.eng.phase = .block ∨ t.eng.phase = .idle) ∧
    (s.eng.phase = .expand → t.eng.phase = .block ∨ t.eng.phase = .idle) ∧
    (s.eng.phase = .block → t.eng.phase = .block ∨ t.eng.phase = .idle) ∧
    (s.eng.phase = .idle → t = s)

/-! ## The host's register window (10_state.md) -/

/-- R24: which register each aligned offset of the window names. -/
def Obligations.RegisterMapOffsets : Prop :=
  regAt 0x000 = .ctrl ∧ regAt 0x004 = .cmd ∧ regAt 0x008 = .status ∧ regAt 0x00C = .keylen ∧ regAt 0x010 = .len ∧
  regAt 0x014 = .src ∧ regAt 0x018 = .dst ∧ regAt 0x01C = .blkcnt ∧
  (∀ k : Fin 8, regAt (0x020 + 4 * k.val) = .key k) ∧ (∀ k : Fin 4, regAt (0x040 + 4 * k.val) = .din k) ∧
  (∀ k : Fin 4, regAt (0x050 + 4 * k.val) = .dout k) ∧ (∀ w : Fin 60, regAt (0x100 + 4 * w.val) = .rk w) ∧
  (∀ off, 0x060 ≤ off ∧ off ≤ 0x0FC → off % 4 = 0 → regAt off = .reserved) ∧
  (∀ off, 0x1F0 ≤ off ∧ off ≤ 0x3FC → off % 4 = 0 → regAt off = .reserved)

/-- R28: every field of STATUS, the reserved ones reading 0; and a host write to STATUS with bit 1 = 1 clears DONE, whether or not
BUSY = 1, every other bit of the value ignored (one step of a host whose statement is that write). -/
def Obligations.StatusRegister : Prop :=
  (∀ e : Engine,
    (statusWord e).getLsbD 0 = e.busy ∧ (statusWord e).getLsbD 1 = e.done ∧ (statusWord e).getLsbD 2 = e.keyvalid ∧
    (statusWord e).getLsbD 3 = false ∧
    ((statusWord e).extractLsb' 4 4).toNat =
      (match e.errcode with
       | .ok => 0
       | .invalidKeyLength => 1
       | .invalidBufferLength => 2
       | .missingInput => 3
       | .illegalCommand => 4
       | .busError => 5) ∧
    (statusWord e).extractLsb' 8 8 = e.rounds ∧ (statusWord e).extractLsb' 16 16 = 0#16) ∧
  ∀ (s : State) (ts : List Agent) (v : Word), s.turns = .host :: ts → s.host.current = some (.write 32 0x008 v) →
    ∃ t, step s = .next t ∧ t.eng = { s.eng with done := s.eng.done && !v.getLsbD 1 } ∧ t.mem = s.mem

/-- R23, R24, R26, R29 to R32, R36, R37: a HOST step that writes an aligned offset of the window other than CMD does to the engine
what a write of that register does, and nothing else; and what a writable register reads back after a write to it while no
command runs; the reserved bits of CTRL and KEYLEN read 0 (R25). CTRL does so while a command runs too (R39). -/
def Obligations.WrittenRegisterReadsBack : Prop :=
  (∀ (s : State) (ts : List Agent) (off : Nat) (v : Word), s.turns = .host :: ts →
    s.host.current = some (.write 32 off v) → off < 1024 → off % 4 = 0 → off ≠ 0x004 →
    step s =
      .next
        { s with turns := ts, host := { s.host with pc := s.host.pc + 1 }, eng := s.eng.regWrite (regAt off) v }) ∧
  (∀ (e : Engine) (v : Word), regValue (e.regWrite .ctrl v) .ctrl = v &&& 0x00000001#32) ∧
  ∀ (e : Engine) (v : Word), e.busy = false →
    regValue (e.regWrite .keylen v) .keylen = v &&& 0x000000FF#32 ∧
    regValue (e.regWrite .len v) .len = v ∧ regValue (e.regWrite .src v) .src = v ∧
    regValue (e.regWrite .dst v) .dst = v ∧
    (∀ k, regValue (e.regWrite (.key k) v) (.key k) = v) ∧ (∀ k, regValue (e.regWrite (.din k) v) (.din k) = v)

/-- R24, R69: a write to one register other than CMD changes what no other register reads, and no internal state but the DONE
flag that a STATUS write clears. -/
def Obligations.RegisterWriteFrame : Prop :=
  ∀ (e : Engine) (r : Reg) (v : Word),
    (∀ r', r' ≠ r → regValue (e.regWrite r v) r' = regValue e r') ∧
    (e.regWrite r v).rks = e.rks ∧ (e.regWrite r v).phase = e.phase ∧ (e.regWrite r v).op = e.op ∧
    (e.regWrite r v).blk = e.blk ∧ (e.regWrite r v).busy = e.busy ∧ (e.regWrite r v).keyvalid = e.keyvalid ∧
    (e.regWrite r v).errcode = e.errcode ∧ (e.regWrite r v).rounds = e.rounds ∧
    (r ≠ .status → (e.regWrite r v).done = e.done)

/-- R25, R69: a write to a read-only register or a reserved offset changes nothing; CMD and the reserved offsets read 0. -/
def Obligations.ReadOnlyAndReservedIgnoreWrites : Prop :=
  ∀ (s : State) (v : Word),
    s.regWrite .blkcnt v = .next s ∧ (∀ k, s.regWrite (.dout k) v = .next s) ∧ (∀ w, s.regWrite (.rk w) v = .next s) ∧
    s.regWrite .reserved v = .next s ∧ regValue s.eng .reserved = 0#32 ∧ regValue s.eng .cmd = 0#32

/-- R69: "No register read has a side effect": a read leaves the engine, the buffer memory and the platform as they are; while no
command runs it returns the register's value. -/
def Obligations.RegisterReadHasNoSideEffect : Prop :=
  ∀ (s : State) (ts : List Agent) (off x : Nat), s.turns = .host :: ts → s.host.current = some (.read 32 off x) →
    off < 1024 → off % 4 = 0 →
    ∃ t, step s = .next t ∧ t.eng = s.eng ∧ t.mem = s.mem ∧ t.cfg = s.cfg ∧
      (s.eng.busy = false → lookup t.host.env x = some (.word (regValue s.eng (regAt off))))

/-- R40: while a command runs, a read of DOUT or RK returns a free value (Config.freeWord, whatever it is), and a read of any
other register its current value. -/
def Obligations.ReadsWhileBusy : Prop :=
  ∀ (s : State) (r : Reg), s.eng.busy = true →
    ((∃ k, r = .dout k) ∨ (∃ w, r = .rk w) → (s.regRead r).1 = Config.freeWord s.draws) ∧
    (¬((∃ k, r = .dout k) ∨ (∃ w, r = .rk w)) → (s.regRead r).1 = regValue s.eng r)

/-- R35, R36, R37, R38, R13: byte 4w+j of the schedule, of the key, of the input block and of the output block is bits
8j+7:8j of its register word. -/
def Obligations.RegisterWordsHoldTheirBytes : Prop :=
  (∀ (e : Engine) (w : Fin 60) (j : Fin 4),
    (regValue e (.rk w)).extractLsb' (8 * j.val) 8 = e.rks[4 * w.val + j.val]) ∧
  (∀ (e : Engine) (k : Fin 8) (j : Fin 4), (keyBytes e)[4 * k.val + j.val] = (regValue e (.key k)).extractLsb' (8 * j.val) 8) ∧
  (∀ (e : Engine) (k : Fin 4) (j : Fin 4), (inputBlock e)[4 * k.val + j.val] = (regValue e (.din k)).extractLsb' (8 * j.val) 8) ∧
  (∀ (e : Engine) (b : Block) (k : Fin 4) (j : Fin 4),
    (regValue (e.setOutput b) (.dout k)).extractLsb' (8 * j.val) 8 = b[4 * k.val + j.val])

/-- R27, R160, R241: a CMD write while no command runs is accepted: the state `accept(v)` gives, nothing else of the engine, the
memory or the platform changed; the ranges of a buffer command are the engine's from then on (log entry 5). A buffer command over the register window is R207's (BufferOverTheWindowFaults; log entry 4). -/
def Obligations.CommandWriteIsAccepted : Prop :=
  ∀ (s : State) (ts : List Agent) (v : Word), s.turns = .host :: ts → s.host.current = some (.write 32 0x004 v) →
    s.eng.busy = false → (isBufferCmd (opOfWord v) = true → aliases s.cfg s.eng = false) →
    ∃ t, step s = .next t ∧ t.mem = s.mem ∧ t.cfg = s.cfg ∧ t.turns = ts ∧
      t.owned =
        (if v = 0x00000003#32 ∨ v = 0x00000004#32 then { src := s.eng.src, dst := s.eng.dst, len := s.eng.len } :: s.owned
         else s.owned) ∧
      t.eng =
        { s.eng with
          op := (match decode v with
            | .command i => .cmd i
            | .reservedBits => .illegal
            | .undefinedOp => .illegal)
          phase := .start
          busy := true
          done := false
          errcode := .ok
          blk := 0
          blkcnt := if v = 0x00000003#32 ∨ v = 0x00000004#32 then 0#32 else s.eng.blkcnt }

/-- R39: while a command runs, a write to any register but CTRL and STATUS, CMD among them, changes no state of the
engine or the memory; a write to CTRL sets IE, and one to STATUS with bit 1 = 1 clears DONE. -/
def Obligations.WritesWhileBusyAreIgnored : Prop :=
  ∀ (s : State) (ts : List Agent) (off : Nat) (v : Word), s.turns = .host :: ts →
    s.host.current = some (.write 32 off v) → off < 1024 → off % 4 = 0 → s.eng.busy = true →
    (off ≠ 0x000 → off ≠ 0x008 → ∃ t, step s = .next t ∧ t.eng = s.eng ∧ t.mem = s.mem ∧ t.owned = s.owned) ∧
    (off = 0x000 → ∃ t, step s = .next t ∧ t.eng = { s.eng with ie := v.getLsbD 0 } ∧ t.mem = s.mem) ∧
    (off = 0x008 → ∃ t, step s = .next t ∧ t.eng = { s.eng with done := s.eng.done && !v.getLsbD 1 } ∧ t.mem = s.mem)

/-! ## Faults (60_exceptions.md section 3) -/

/-- R23, R205: a register access that is not 32-bit, or at an offset of the window that is not a multiple of 4. -/
def Obligations.UnsupportedAccessFaults : Prop :=
  ∀ (s : State) (ts : List Agent) (bits off x : Nat) (v : Word), s.turns = .host :: ts → off < 1024 →
    (bits ≠ 32 ∨ off % 4 ≠ 0) →
    (s.host.current = some (.write bits off v) → step s = .fault .hostAccess) ∧
    (s.host.current = some (.read bits off x) → step s = .fault .hostAccess)

/-- R206, R241: a host access, read or write, to a byte of a range the engine still holds faults: from the acceptance of a
buffer command to the host's observation of its completion, which State.owned records (log entry 5). And while a buffer command
runs, its source and destination ranges are among them. -/
def Obligations.HostAccessToRunningBuffersFaults : Prop :=
  (∀ (s : State) (ts : List Agent) (c : Claim) (a : Addr) (bs : List Byte) (n x j : Nat), s.turns = .host :: ts →
    c ∈ s.owned → c.covers (byteAddr a j) = true →
    (s.host.current = some (.memRead a n x) → j < n → step s = .fault .hostBufferRace) ∧
    (s.host.current = some (.memWrite a bs) → j < bs.length → step s = .fault .hostBufferRace)) ∧
  ∀ (s : State) (ts : List Agent) (a : Addr) (bs : List Byte) (n x j : Nat), s.Inv → s.turns = .host :: ts →
    s.eng.phase ≠ .idle → isBufferCmd s.eng.op = true →
    (inRange s.eng.src s.eng.len (byteAddr a j) = true ∨ inRange s.eng.dst s.eng.len (byteAddr a j) = true) →
    (s.host.current = some (.memRead a n x) → j < n → step s = .fault .hostBufferRace) ∧
    (s.host.current = some (.memWrite a bs) → j < bs.length → step s = .fault .hostBufferRace)

/-- R63, R207: a buffer command whose source or destination range covers an address that MEM_OK admits and at which the
platform maps the register window faults when it would be accepted. Where the platform maps it is a parameter of the model's
(log entry 4). -/
def Obligations.BufferOverTheWindowFaults : Prop :=
  ∀ (s : State) (ts : List Agent) (v : Word) (w a : Addr), s.turns = .host :: ts →
    s.host.current = some (.write 32 0x004 v) → s.eng.busy = false → (v = 0x00000003#32 ∨ v = 0x00000004#32) →
    s.cfg.windowAt = some w → (a - w).toNat < 1024 → (memOk s.cfg a .read = true ∨ memOk s.cfg a .write = true) →
    (inRange s.eng.src s.eng.len a = true ∨ inRange s.eng.dst s.eng.len a = true) →
    step s = .fault .bufferAlias

/-- R204 to R207: what a fault of a step comes from: a HOST step whose statement is an access of the window that is not 32-bit and
aligned, a buffer access that touches a range the engine holds, or a CMD write of a buffer command, while none runs, over an address
of the window that MEM_OK admits. So no step of the ENGINE ("Engine errors are not traps") and no RESET faults. -/
def Obligations.OnlyHostStatementsFault : Prop :=
  (∀ (s : State) (f : Fault), step s = .fault f →
    ((∃ ts, s.turns = .host :: ts) ∨ s.turns = [] ∧ hostEnabled s = true) ∧
    match f with
    | .hostAccess =>
      ∃ bits off, off < 1024 ∧ (bits ≠ 32 ∨ off % 4 ≠ 0) ∧
        ((∃ v, s.host.current = some (.write bits off v)) ∨ ∃ x, s.host.current = some (.read bits off x))
    | .hostBufferRace =>
      ∃ (a : Addr) (n j : Nat) (c : Claim), j < n ∧ c ∈ s.owned ∧ c.covers (byteAddr a j) = true ∧
        ((∃ bs, bs.length = n ∧ s.host.current = some (.memWrite a bs)) ∨ ∃ x, s.host.current = some (.memRead a n x))
    | .bufferAlias =>
      s.eng.busy = false ∧
      (∃ v, s.host.current = some (.write 32 0x004 v) ∧ (v = 0x00000003#32 ∨ v = 0x00000004#32)) ∧
      ∃ w a, s.cfg.windowAt = some w ∧ (a - w).toNat < 1024 ∧ (memOk s.cfg a .read = true ∨ memOk s.cfg a .write = true) ∧
        (inRange s.eng.src s.eng.len a = true ∨ inRange s.eng.dst s.eng.len a = true)) ∧
  (∀ (s : State) (f : Fault), engineStep s ≠ .fault f) ∧
  ∀ (s : State) (ts : List Agent) (f : Fault), s.turns = .engine :: ts ∨ s.turns = .reset :: ts → step s ≠ .fault f

/-! ## Interrupt (60_exceptions.md section 4) -/

/-- R44, R210, R211: IRQ is high exactly while IE and DONE are 1: completion raises it if IE is set and only then, ACK and the
next acceptance lower it. -/
def Obligations.IrqFollowsEnableAndDone : Prop :=
  (∀ e : Engine, irqLine e = true ↔ e.ie = true ∧ e.done = true) ∧
  (∀ (e : Engine) (c : ErrCode), irqLine (e.finish c) = e.ie) ∧
  (∀ e : Engine, irqLine e.ack = false) ∧ (∀ (e : Engine) (o : Op), irqLine (e.accept o) = false)

/-! ## sbox_256 and gf28_multiply (40_sbox_gf28.md) -/

/-- R100, R102: the table is the affine transform of the inverse, inv(0) = 0; it is a permutation with no fixed point. -/
def Obligations.SboxIsTheAffineInverse : Prop :=
  sbox 0x00#8 = sboxAffine 0x00#8 ∧ (∀ a : Byte, a ≠ 0x00#8 → ∃ b, gmul a b = 0x01#8 ∧ sbox a = sboxAffine b) ∧
  (∀ a b : Byte, sbox a = sbox b → a = b) ∧ (∀ a : Byte, sbox a ≠ a)

/-- R103 to R107: the products that the constant select gives. -/
def Obligations.ConstantSelectProducts : Prop :=
  ∀ a : Byte,
    gmulC a 0#2 = 0x00#8 ∧ gmulC a 1#2 = a ∧
    gmulC a 2#2 = (if a.getLsbD 7 then (a <<< 1) ^^^ 0x1B#8 else a <<< 1) ∧ gmulC a 3#2 = gmulC a 2#2 ^^^ a

/-- R110: (a) the product with a constant is linear; (b) tripling is doubling plus the byte; (c) doubling is a bijection; (d) it is
the product with x modulo the polynomial 0x11B, which is the 9-bit product, less the polynomial where bit 8 is set. And R109: the constants' products are the general
product's. -/
def Obligations.ConstantProductLaws : Prop :=
  (∀ (c : BitVec 2) (a b : Byte), gmulC (a ^^^ b) c = gmulC a c ^^^ gmulC b c) ∧
  (∀ a : Byte, mul3 a = xtime a ^^^ mul1 a) ∧ Function.Bijective xtime ∧
  (∀ a : Byte, xtime a = mod11B (timesX a)) ∧
  (∀ a : Byte, (xtime a).setWidth 9 =
    (a.setWidth 9 <<< 1) ^^^ (if (a.setWidth 9 <<< 1).getLsbD 8 then 0x11B#9 else 0x000#9)) ∧
  ∀ (c : BitVec 2) (a : Byte), gmulC a c = gmul a (c.setWidth 8)

/-! ## key_schedule_expander (41_key_schedule.md) -/

/-- R121, R123: the fourteen round constants; and, byte by byte, the next block: its first word takes the rotated, substituted last
word of the block before and the round constant, each further word the word before it. -/
def Obligations.NextBlockRecurrence : Prop :=
  (List.range' 1 14).map rcon =
    [0x01#8, 0x02#8, 0x04#8, 0x08#8, 0x10#8, 0x20#8, 0x40#8, 0x80#8, 0x1b#8, 0x36#8, 0x6c#8, 0xd8#8, 0xab#8, 0x4d#8] ∧
  ∀ (p : Block) (r : Nat),
    (nextBlock p r)[0] = p[0] ^^^ sbox p[13] ^^^ rcon r ∧ (nextBlock p r)[1] = p[1] ^^^ sbox p[14] ∧
    (nextBlock p r)[2] = p[2] ^^^ sbox p[15] ∧ (nextBlock p r)[3] = p[3] ^^^ sbox p[12] ∧
    ∀ j : Fin 12, (nextBlock p r)[j.val + 4] = p[j.val + 4] ^^^ (nextBlock p r)[j.val]

/-- R124, R126: the AES-128 schedule is the key, ten next blocks and 64 zero bytes, with 10 rounds; SRC_BLOCK16's is the key's first
16 bytes and fourteen next blocks, with 14 rounds. -/
def Obligations.BlockRecurrenceSchedules : Prop :=
  (∀ (mode : KsMode) (key : KeyBytes), keyScheduleExpander mode key false = (keyExpansion128 key, 10#8)) ∧
  (∀ (mode : KsMode) (key : KeyBytes), keyScheduleExpander mode key true = (keyExpansion256 mode key, 14#8)) ∧
  (∀ key : KeyBytes,
    roundKey (keyExpansion128 key) 0 = keyBlock key ∧
    (∀ r, 1 ≤ r → r ≤ 10 → roundKey (keyExpansion128 key) r = nextBlock (roundKey (keyExpansion128 key) (r - 1)) r) ∧
    (∀ i : Fin 240, 176 ≤ i.val → (keyExpansion128 key)[i] = 0#8)) ∧
  (∀ key : KeyBytes,
    roundKey (keyExpansion256 .srcBlock16 key) 0 = keyBlock key ∧
    (∀ r, 1 ≤ r → r ≤ 14 →
      roundKey (keyExpansion256 .srcBlock16 key) r = nextBlock (roundKey (keyExpansion256 .srcBlock16 key) (r - 1)) r))

/-- R127, R128: under SRC_NK8_NOSUB and FIPS197 words 0 to 7 are the key, and each later word is made from the word 8 before it
and the word before it, with the S-box-only branch under FIPS197 alone; the rounds are 14. -/
def Obligations.WordRecurrenceSchedules : Prop :=
  ∀ (key : KeyBytes) (mode : KsMode), mode ≠ .srcBlock16 →
    keyScheduleExpander mode key true = (keyExpansion256 mode key, 14#8) ∧
    (∀ i : Fin 8, rksWord (keyExpansion256 mode key) i.val = keyWord key i) ∧
    ∀ i, 8 ≤ i → i < 60 →
      rksWord (keyExpansion256 mode key) i =
        xorWord (rksWord (keyExpansion256 mode key) (i - 8))
          (if i % 8 = 0 then
             xorWord (subWord (rotWord (rksWord (keyExpansion256 mode key) (i - 1)))) #v[rcon (i / 8), 0#8, 0#8, 0#8]
           else if mode = .fips197 ∧ i % 8 = 4 then subWord (rksWord (keyExpansion256 mode key) (i - 1))
           else rksWord (keyExpansion256 mode key) (i - 1))

/-- R36, R126: a 16-byte expansion, and SRC_BLOCK16, do not depend on key bytes 16 to 31; SRC_BLOCK16's blocks 0 to 10 are the
AES-128 ones of the first 16 bytes. -/
def Obligations.SixteenByteSchedulesIgnoreTheRest : Prop :=
  (∀ key key' : KeyBytes, (∀ i : Fin 32, i.val < 16 → key[i] = key'[i]) →
    keyExpansion128 key = keyExpansion128 key' ∧
      keyExpansion256 .srcBlock16 key = keyExpansion256 .srcBlock16 key') ∧
  ∀ (key : KeyBytes) (r : Nat), r ≤ 10 → roundKey (keyExpansion256 .srcBlock16 key) r = roundKey (keyExpansion128 key) r

/-! ## aes_round_pipeline (42_round_pipeline.md) -/

/-- R142, R149 (a): the byte each row and column takes, and that four ShiftRows give the State back. -/
def Obligations.ShiftRowsRotatesRows : Prop :=
  (∀ (s : Block) (r c : Fin 4), (shiftRows s)[4 * c.val + r.val] = s[4 * ((c.val + r.val) % 4) + r.val]'(by omega)) ∧
  ∀ s : Block, shiftRows (shiftRows (shiftRows (shiftRows s))) = s

/-- R143: each output byte is the row of the matrix [[2,3,1,1],[1,2,3,1],[1,1,2,3],[3,1,1,2]] times the column, in the field product
of R109. -/
def Obligations.MixColumnsIsTheMatrixProduct : Prop :=
  ∀ (s : Block) (c : Fin 4),
    (mixColumns s)[4 * c.val] = gmul s[4 * c.val] 2#8 ^^^ gmul s[4 * c.val + 1] 3#8 ^^^ s[4 * c.val + 2] ^^^ s[4 * c.val + 3] ∧
    (mixColumns s)[4 * c.val + 1] = s[4 * c.val] ^^^ gmul s[4 * c.val + 1] 2#8 ^^^ gmul s[4 * c.val + 2] 3#8 ^^^ s[4 * c.val + 3] ∧
    (mixColumns s)[4 * c.val + 2] = s[4 * c.val] ^^^ s[4 * c.val + 1] ^^^ gmul s[4 * c.val + 2] 2#8 ^^^ gmul s[4 * c.val + 3] 3#8 ∧
    (mixColumns s)[4 * c.val + 3] = gmul s[4 * c.val] 3#8 ^^^ s[4 * c.val + 1] ^^^ s[4 * c.val + 2] ^^^ gmul s[4 * c.val + 3] 2#8

/-- R149 (b): MixColumns is linear. -/
def Obligations.MixColumnsIsLinear : Prop :=
  ∀ a b : Block, mixColumns (Vector.zipWith (· ^^^ ·) a b) = Vector.zipWith (· ^^^ ·) (mixColumns a) (mixColumns b)

/-- R141, R144: SubBytes and AddRoundKey lane by lane; the same round key twice restores the State. -/
def Obligations.LaneWiseRoundOperations : Prop :=
  (∀ (s : Block) (k : Fin 16), (subBytes s)[k] = sbox s[k]) ∧
  (∀ (s : Block) (rks : Schedule) (r : Fin 15) (k : Fin 16),
    (addRoundKey s rks r.val)[k] = s[k] ^^^ rks[16 * r.val + k.val]) ∧
  ∀ (s : Block) (rks : Schedule) (r : Nat), addRoundKey (addRoundKey s rks r) rks r = s

/-- R145, R146: the transform by its rounds, for 10 and 14. -/
def Obligations.CipherRoundSequence : Prop :=
  ∀ (pt : Block) (rks : Schedule) (rounds : Nat), rounds = 10 ∨ rounds = 14 →
    ∃ st : Nat → Block,
      st 0 = addRoundKey pt rks 0 ∧
      (∀ r, 1 ≤ r → r ≤ rounds - 1 → st r = addRoundKey (mixColumns (shiftRows (subBytes (st (r - 1))))) rks r) ∧
      cipher pt rks rounds = addRoundKey (shiftRows (subBytes (st (rounds - 1)))) rks rounds

/-- R149 (d): for a fixed schedule and round count the transform is a bijection on blocks. -/
def Obligations.CipherIsABijection : Prop :=
  ∀ (rks : Schedule) (rounds : Nat), Function.Bijective fun pt => cipher pt rks rounds

/-! ## The commands (43_ecb_controller.md) -/

/-- R170: NOP: its acceptance sets BUSY and clears DONE and ERRCODE; its START step completes with OK and changes nothing else: no
key, schedule, buffer or BLKCNT. From reset, STATUS is then 0x00000002. -/
def Obligations.NopCompletes : Prop :=
  (∀ s : State, s.eng.phase = .start →
    exec .nop s = .next { s with eng := { s.eng with phase := .idle, busy := false, done := true, errcode := .ok } }) ∧
  (∀ s : State,
    (s.accept 0x00000000#32).eng =
      { s.eng with op := .cmd .nop, phase := .start, busy := true, done := false, errcode := .ok, blk := 0 }) ∧
  (∀ t, exec .nop (State.reset.accept 0x00000000#32) = .next t → statusWord t.eng = 0x00000002#32)

/-- R171: EXPAND_KEY. START: to EXPAND for a key length of 16 or 32, else INVALID_KEY_LENGTH with the schedule, KEYVALID and ROUNDS
as they were. EXPAND: the whole schedule of the key registers and its rounds are held, and the command completes with OK. -/
def Obligations.ExpandKeyCompletes : Prop :=
  ∀ s : State,
    (s.eng.phase = .start → s.eng.keylen = 16#8 ∨ s.eng.keylen = 32#8 →
      exec .expandKey s = .next { s with eng := { s.eng with phase := .expand } }) ∧
    (s.eng.phase = .start → s.eng.keylen ≠ 16#8 → s.eng.keylen ≠ 32#8 →
      exec .expandKey s =
        .next { s with eng := { s.eng with phase := .idle, busy := false, done := true, errcode := .invalidKeyLength } }) ∧
    (s.eng.phase = .expand → s.eng.op = .cmd .expandKey →
      exec .expandKey s =
        .next
          { s with
            eng :=
              { s.eng with
                rks := if s.eng.keylen = 16#8 then keyExpansion128 (keyBytes s.eng)
                  else keyExpansion256 s.cfg.ks256Mode (keyBytes s.eng)
                rounds := if s.eng.keylen = 16#8 then 10#8 else 14#8
                keyvalid := true, phase := .idle, busy := false, done := true, errcode := .ok } })

/-- R172: ENCRYPT_BLOCK with a schedule held: DOUT takes the words of the transform of DIN, and the command completes; with none
held, MISSING_INPUT and nothing else. -/
def Obligations.EncryptBlockCompletes : Prop :=
  ∀ s : State, s.eng.phase = .start →
    (s.eng.keyvalid = true →
      ∃ t, exec .encryptBlock s = .next t ∧
        t =
          { s with
            eng :=
              { s.eng with
                dout := wordsOfBytes (n := 4) (cipher (bytesOfWords s.eng.din) s.eng.rks s.eng.rounds.toNat),
                work := t.eng.work, phase := .idle, busy := false, done := true, errcode := .ok } }) ∧
    (s.eng.keyvalid = false →
      exec .encryptBlock s =
        .next { s with eng := { s.eng with phase := .idle, busy := false, done := true, errcode := .missingInput } })

/-- R173, R203: ECB_ENCRYPT's START step: MISSING_INPUT first, then INVALID_BUFFER_LENGTH, else to BLOCK. -/
def Obligations.EcbEncryptChecksInOrder : Prop :=
  ∀ s : State, s.eng.phase = .start →
    (s.eng.keyvalid = false →
      exec .ecbEncrypt s =
        .next { s with eng := { s.eng with phase := .idle, busy := false, done := true, errcode := .missingInput } }) ∧
    (s.eng.keyvalid = true → (s.eng.len = 0#32 ∨ s.eng.len.toNat % 16 ≠ 0) →
      exec .ecbEncrypt s =
        .next { s with eng := { s.eng with phase := .idle, busy := false, done := true, errcode := .invalidBufferLength } }) ∧
    (s.eng.keyvalid = true → s.eng.len ≠ 0#32 → s.eng.len.toNat % 16 = 0 →
      exec .ecbEncrypt s = .next { s with eng := { s.eng with phase := .block } })

/-- R174, R203: ENCRYPT's START step: INVALID_KEY_LENGTH first, then INVALID_BUFFER_LENGTH, else to EXPAND. -/
def Obligations.EncryptChecksInOrder : Prop :=
  ∀ s : State, s.eng.phase = .start →
    (s.eng.keylen ≠ 16#8 → s.eng.keylen ≠ 32#8 →
      exec .encrypt s =
        .next { s with eng := { s.eng with phase := .idle, busy := false, done := true, errcode := .invalidKeyLength } }) ∧
    (s.eng.keylen = 16#8 ∨ s.eng.keylen = 32#8 → (s.eng.len = 0#32 ∨ s.eng.len.toNat % 16 ≠ 0) →
      exec .encrypt s =
        .next { s with eng := { s.eng with phase := .idle, busy := false, done := true, errcode := .invalidBufferLength } }) ∧
    (s.eng.keylen = 16#8 ∨ s.eng.keylen = 32#8 → s.eng.len ≠ 0#32 → s.eng.len.toNat % 16 = 0 →
      exec .encrypt s = .next { s with eng := { s.eng with phase := .expand } })

/-- R166, R174: ENCRYPT's EXPAND step: the key is always expanded, whatever was held, and the sequencer goes to block 0. -/
def Obligations.EncryptExpandsThenEntersBlocks : Prop :=
  ∀ s : State, s.eng.phase = .expand → s.eng.op = .cmd .encrypt →
    exec .encrypt s =
      .next
        { s with
          eng :=
            { s.eng with
              rks := if s.eng.keylen = 16#8 then keyExpansion128 (keyBytes s.eng)
                else keyExpansion256 s.cfg.ks256Mode (keyBytes s.eng)
              rounds := if s.eng.keylen = 16#8 then 10#8 else 14#8
              keyvalid := true, blk := 0, phase := .block } }

/-- R167, R70, R71, R66: a BLOCK step of ECB_ENCRYPT or ENCRYPT whose block can be read and written: the destination block is the
transform of the source block, no byte outside it changes, the block is counted, and the last one completes the command. -/
def Obligations.BlockStepEncryptsOneBlock : Prop :=
  ∀ (s : State) (i : Instr), i = .ecbEncrypt ∨ i = .encrypt → s.mem.wf = true → s.eng.phase = .block →
    blockOk s.cfg (blockAddr s.eng.src s.eng.blk) .read = true →
    blockOk s.cfg (blockAddr s.eng.dst s.eng.blk) .write = true →
    ∃ t, exec i s = .next t ∧ t = { s with eng := t.eng, mem := t.mem } ∧
      blockAt t.mem (blockAddr s.eng.dst s.eng.blk) =
        cipher (blockAt s.mem (blockAddr s.eng.src s.eng.blk)) s.eng.rks s.eng.rounds.toNat ∧
      (∀ a, ¬InBlock (blockAddr s.eng.dst s.eng.blk) a → t.mem.read a.toNat = s.mem.read a.toNat) ∧
      (s.eng.blk + 1 = s.eng.len.toNat / 16 →
        t.eng =
          { s.eng with
            blkcnt := BitVec.ofNat 32 (s.eng.blk + 1), blk := s.eng.blk + 1, work := t.eng.work,
            phase := .idle, busy := false, done := true, errcode := .ok }) ∧
      (s.eng.blk + 1 ≠ s.eng.len.toNat / 16 →
        t.eng =
          { s.eng with blkcnt := BitVec.ofNat 32 (s.eng.blk + 1), blk := s.eng.blk + 1, work := t.eng.work })

/-- R70, R167, R202: a BLOCK step whose source block cannot be read ends the command with BUS_ERROR; no byte changes and BLKCNT
keeps its count. -/
def Obligations.FailedReadIsABusError : Prop :=
  ∀ (s : State) (i : Instr), i = .ecbEncrypt ∨ i = .encrypt → s.eng.phase = .block →
    blockOk s.cfg (blockAddr s.eng.src s.eng.blk) .read = false →
    exec i s = .next { s with eng := { s.eng with phase := .idle, busy := false, done := true, errcode := .busError } }

/-- R71, R167, R202: a BLOCK step whose destination block cannot be written ends the command with BUS_ERROR; each byte of the
block at an address MEM_OK admits is old or new (whichever Config.freeBit says), every other byte is old, and BLKCNT keeps its
count. -/
def Obligations.FailedWriteIsABusError : Prop :=
  ∀ (s : State) (i : Instr), i = .ecbEncrypt ∨ i = .encrypt → s.mem.wf = true → s.eng.phase = .block →
    blockOk s.cfg (blockAddr s.eng.src s.eng.blk) .read = true →
    blockOk s.cfg (blockAddr s.eng.dst s.eng.blk) .write = false →
    ∃ t, exec i s = .next t ∧ t = { s with eng := t.eng, mem := t.mem, draws := t.draws } ∧
      t.eng = { s.eng with work := t.eng.work, phase := .idle, busy := false, done := true, errcode := .busError } ∧
      (∀ a, ¬InBlock (blockAddr s.eng.dst s.eng.blk) a → t.mem.read a.toNat = s.mem.read a.toNat) ∧
      ∀ j : Fin 16,
        (memOk s.cfg (byteAddr (blockAddr s.eng.dst s.eng.blk) j.val) .write = false →
          t.mem.read (byteAddr (blockAddr s.eng.dst s.eng.blk) j.val).toNat =
            s.mem.read (byteAddr (blockAddr s.eng.dst s.eng.blk) j.val).toNat) ∧
        (t.mem.read (byteAddr (blockAddr s.eng.dst s.eng.blk) j.val).toNat =
            s.mem.read (byteAddr (blockAddr s.eng.dst s.eng.blk) j.val).toNat ∨
          t.mem.read (byteAddr (blockAddr s.eng.dst s.eng.blk) j.val).toNat =
            (cipher (blockAt s.mem (blockAddr s.eng.src s.eng.blk)) s.eng.rks s.eng.rounds.toNat)[j])

/-- R175: CLEAR zeroes the key, the blocks and the schedule, completes with OK, and keeps CTRL, KEYLEN, LEN, SRC, DST and
BLKCNT and the buffer memory. -/
def Obligations.ClearReleasesTheContext : Prop :=
  ∀ s : State, s.eng.phase = .start →
    exec .clear s =
      .next
        { s with
          eng :=
            { s.eng with
              key := Vector.replicate 8 0#32, din := Vector.replicate 4 0#32, dout := Vector.replicate 4 0#32,
              rks := Vector.replicate 240 0#8, keyvalid := false, rounds := 0#8,
              phase := .idle, busy := false, done := true, errcode := .ok } }

/-- R176, R83: the illegal command completes with ILLEGAL_COMMAND and changes nothing else; the step of an accepted word above 5
is that completion. -/
def Obligations.IllegalCommandCompletes : Prop :=
  (∀ s : State, s.eng.phase = .start →
    execIllegal s =
      .next { s with eng := { s.eng with phase := .idle, busy := false, done := true, errcode := .illegalCommand } }) ∧
  ∀ (s : State) (v : Word) (ts : List Agent), 5 < v.toNat → s.turns = .engine :: ts →
    ∃ t, step (s.accept v) = .next t ∧ t.mem = s.mem ∧ t.eng.blkcnt = s.eng.blkcnt ∧ t.eng.rks = s.eng.rks ∧
      t.eng.done = true ∧ t.eng.errcode = .illegalCommand ∧ t.eng.phase = .idle

/-- R177, R203: every check is made before any work: a START step touches no buffer byte, and one that ends the command with an error
has changed only the four fields of completion, and that error is no BUS_ERROR; a later step makes no check: an EXPAND step that
ends the command ends it with OK, a BLOCK step with OK or BUS_ERROR. -/
def Obligations.ChecksComeBeforeWork : Prop :=
  (∀ (s : State) (i : Instr), s.eng.phase = .start →
    ∃ t, exec i s = .next t ∧ t = { s with eng := t.eng } ∧
      (∀ a : Addr, t.mem.read a.toNat = s.mem.read a.toNat) ∧
      (t.eng.phase = .idle → t.eng.errcode ≠ .ok →
        t.eng = { s.eng with phase := .idle, busy := false, done := true, errcode := t.eng.errcode } ∧
        t.eng.errcode ≠ .busError)) ∧
  (∀ (s : State) (i : Instr), s.eng.phase = .expand →
    ∃ t, exec i s = .next t ∧ (t.eng.phase = .idle → t.eng.errcode = .ok)) ∧
  ∀ (s : State) (i : Instr), s.eng.phase = .block →
    ∃ t, exec i s = .next t ∧ (t.eng.phase = .idle → t.eng.errcode = .ok ∨ t.eng.errcode = .busError)

/-- R85, R163: what the ENGINE steps of a command leave alone. Every command keeps CTRL, KEYLEN, LEN, SRC, DST, the opcode, the host,
the platform, the turns and the claimed ranges; only CLEAR changes KEY and DIN, only ENCRYPT_BLOCK and CLEAR change DOUT, only
EXPAND_KEY, ENCRYPT and CLEAR change the schedule, KEYVALID and ROUNDS, only the buffer commands change BLKCNT. -/
def Obligations.CommandRegisterFrame : Prop :=
  ∀ (s t : State) (i : Instr), s.Inv → s.eng.op = .cmd i → exec i s = .next t →
    t.eng.ie = s.eng.ie ∧ t.eng.keylen = s.eng.keylen ∧ t.eng.len = s.eng.len ∧ t.eng.src = s.eng.src ∧
    t.eng.dst = s.eng.dst ∧ t.eng.op = s.eng.op ∧ t.host = s.host ∧ t.cfg = s.cfg ∧ t.turns = s.turns ∧ t.owned = s.owned ∧
    (i ≠ .clear → t.eng.key = s.eng.key ∧ t.eng.din = s.eng.din) ∧
    (i ≠ .clear → i ≠ .encryptBlock → t.eng.dout = s.eng.dout) ∧
    (i = .nop ∨ i = .encryptBlock ∨ i = .ecbEncrypt →
      t.eng.rks = s.eng.rks ∧ t.eng.keyvalid = s.eng.keyvalid ∧ t.eng.rounds = s.eng.rounds) ∧
    (i ≠ .ecbEncrypt → i ≠ .encrypt → t.eng.blkcnt = s.eng.blkcnt ∧ t.eng.blk = s.eng.blk)

/-- R62, R66: the memory frame. NOP, EXPAND_KEY, ENCRYPT_BLOCK and CLEAR change no byte of the buffer memory; ECB_ENCRYPT and ENCRYPT
change none outside the destination range, and none at an address where MEM_OK admits no write. -/
def Obligations.CommandMemoryFrame : Prop :=
  ∀ (s t : State) (i : Instr), s.Inv → s.eng.op = .cmd i → exec i s = .next t →
    (i ≠ .ecbEncrypt → i ≠ .encrypt → ∀ a : Addr, t.mem.read a.toNat = s.mem.read a.toNat) ∧
    (∀ a : Addr, inRange s.eng.dst s.eng.len a = false → t.mem.read a.toNat = s.mem.read a.toNat) ∧
    (∀ a : Addr, memOk s.cfg a .write = false → t.mem.read a.toNat = s.mem.read a.toNat)

/-- R172, R245: ENCRYPT_BLOCK does not depend on KEY and KEYLEN as they stand, only on the schedule held. -/
def Obligations.EncryptBlockIgnoresKeyRegisters : Prop :=
  ∀ (s : State) (k : Vector Word 8) (n : BitVec 8), s.eng.phase = .start →
    ∃ t t', exec .encryptBlock s = .next t ∧
      exec .encryptBlock { s with eng := { s.eng with key := k, keylen := n } } = .next t' ∧
      t' = { t with eng := { t.eng with key := k, keylen := n } }

/-! ## Reset (10_state.md section 7, 70_reset_and_hazards.md section 1) -/

/-- R46: after RESET every register of the map reads 0, the sequencer is IDLE with NOP and block 0, no flag is set, and IRQ is low. -/
def Obligations.ResetValues : Prop :=
  (∀ r : Reg, regValue State.reset.eng r = 0#32) ∧ State.reset.eng.rks = Vector.replicate 240 0#8 ∧
  State.reset.eng.phase = .idle ∧ State.reset.eng.op = .cmd .nop ∧ State.reset.eng.blk = 0 ∧
  State.reset.eng.busy = false ∧ State.reset.eng.done = false ∧ State.reset.eng.keyvalid = false ∧
  State.reset.eng.errcode = .ok ∧ State.reset.eng.rounds = 0#8 ∧
  State.reset.eng.work = Vector.replicate 16 0#8 ∧ irqLine State.reset.eng = false

/-- R230: a RESET event at any time, a running command aborted: the engine at its reset values, DONE 0 and IRQ low, the host and
the platform as they were. -/
def Obligations.ResetAbortsTheCommand : Prop :=
  ∀ (s : State) (ts : List Agent), s.turns = .reset :: ts →
    ∃ t, step s = .next t ∧ t.eng = State.reset.eng ∧ t.eng.done = false ∧ irqLine t.eng = false ∧
      t.host = s.host ∧ t.cfg = s.cfg ∧ t.turns = ts

/-- R231: RESET changes no buffer byte outside the BLOCK phase, or after the last block; in the BLOCK phase only bytes of
destination block st.blk, each to its ciphertext value or not at all (whichever Config.freeBit says). -/
def Obligations.ResetMayTearOneBlock : Prop :=
  ∀ (s : State) (ts : List Agent), s.mem.wf = true → s.turns = .reset :: ts →
    ∃ t, step s = .next t ∧
      (s.eng.phase ≠ .block ∨ s.eng.len.toNat / 16 ≤ s.eng.blk → t.mem = s.mem) ∧
      (∀ a, ¬InBlock (blockAddr s.eng.dst s.eng.blk) a → t.mem.read a.toNat = s.mem.read a.toNat) ∧
      ∀ j : Fin 16,
        t.mem.read (byteAddr (blockAddr s.eng.dst s.eng.blk) j.val).toNat =
            s.mem.read (byteAddr (blockAddr s.eng.dst s.eng.blk) j.val).toNat ∨
          t.mem.read (byteAddr (blockAddr s.eng.dst s.eng.blk) j.val).toNat =
            (cipher (blockAt s.mem (blockAddr s.eng.src s.eng.blk)) s.eng.rks s.eng.rounds.toNat)[j]

/-! ## The host's own memory (20_memory.md R64, 30_encoding.md R87) -/

/-- R87, R64: `MW` outside the engine's ranges stores its bytes at consecutive addresses, which then read back, and changes no other
byte and nothing else but the host's position; `MR` outside them binds the bytes at those addresses to its name and changes nothing
else but the host's position. Each is one step (log entry 9). -/
def Obligations.HostMemoryWriteThenRead : Prop :=
  (∀ (s : State) (ts : List Agent) (a : Addr) (bs : List Byte), s.mem.wf = true → s.turns = .host :: ts →
    s.host.current = some (.memWrite a bs) → bs.length ≤ 2 ^ 32 → s.races a bs.length = false →
    ∃ t, step s = .next t ∧
      t = { s with turns := ts, host := { s.host with pc := s.host.pc + 1 }, mem := t.mem } ∧
      readBytes t.mem a bs.length = bs ∧
      ∀ x : Addr, bs.length ≤ (x - a).toNat → t.mem.read x.toNat = s.mem.read x.toNat) ∧
  (∀ (s : State) (ts : List Agent) (a : Addr) (n x : Nat), s.turns = .host :: ts →
    s.host.current = some (.memRead a n x) → s.races a n = false →
    step s =
      .next
        { s with
          turns := ts
          host := { s.host with pc := s.host.pc + 1, env := (x, .bytes (readBytes s.mem a n)) :: s.host.env } }) ∧
  ∀ (m : Memory) (a : Addr) (n : Nat), (readBytes m a n).length = n ∧
    ∀ j, j < n → (readBytes m a n)[j]? = some (m.read (byteAddr a j).toNat)

/-- R87: `IF x[hi:lo] = v GOTO L` on a bound word goes to the label where the field has the value (R9), else to the next
statement. R89, U11: a program ends at `END` and nowhere else, with an end state if BUSY = 0 there; after it the host has no step;
an end state is kept by every step but RESET; a program that took `END` with BUSY = 1 has no end state, then or later. That `END` is
one step of the host is the model's choice (log entry 21). -/
def Obligations.HostBranchesAndEnds : Prop :=
  (∀ (s : State) (ts : List Agent) (x hi lo v l n : Nat) (w : Word), s.turns = .host :: ts →
    s.host.current = some (.ifGoto (.field x hi lo v) l) → lookup s.host.env x = some (.word w) →
    labelAt s.host.prog l = some n →
    (w.toNat / 2 ^ lo % 2 ^ (hi + 1 - lo) = v → step s = .next { s with turns := ts, host := { s.host with pc := n } }) ∧
    (w.toNat / 2 ^ lo % 2 ^ (hi + 1 - lo) ≠ v →
      step s = .next { s with turns := ts, host := { s.host with pc := s.host.pc + 1 } })) ∧
  (∀ (s : State) (ts : List Agent), s.turns = .host :: ts → s.host.current = some .stop →
    ∃ t, step s = .next t ∧
      t = { s with turns := ts, host := { s.host with run := if s.eng.busy then .endedBusy else .ended } } ∧
      (t.ended = true ↔ s.eng.busy = false)) ∧
  (∀ s t : State, s.host.run = .running → step s = .next t → t.host.run ≠ .running → s.host.current = some .stop) ∧
  (∀ s : State, s.host.run ≠ .running → hostEnabled s = false ∧ hostStep s = .next s) ∧
  (∀ s : State, s.Inv → s.ended = true → (∀ ts, s.turns ≠ .reset :: ts) →
    ∃ t, step s = .next t ∧ t.eng = s.eng ∧ t.mem = s.mem ∧ t.ended = true) ∧
  ∀ s : State, s.host.run = .endedBusy →
    s.ended = false ∧ ∀ t, step s = .next t → t.host.run = .endedBusy ∧ t.ended = false

/-- R88: the expansions of the pseudo-instructions. -/
def Obligations.PseudoInstructionsExpand : Prop :=
  (∀ i : Instr, pseudoCmd i = [.write 32 0x004 (encode i)]) ∧
  (∀ l x : Nat, pseudoWait l x = [.label l, .read 32 0x008 x, .ifGoto (.field x 0 0 1) l]) ∧
  pseudoAck = [.write 32 0x008 0x00000002#32] ∧
  (∀ key : List Byte, key.length = 16 →
    pseudoSetKey key = .write 32 0x00C 16#32 :: (List.range 4).map fun k =>
      .write 32 (0x020 + 4 * k)
        (leWord (key.getD (4 * k) 0#8) (key.getD (4 * k + 1) 0#8) (key.getD (4 * k + 2) 0#8) (key.getD (4 * k + 3) 0#8))) ∧
  (∀ key : List Byte, key.length = 32 →
    pseudoSetKey key = .write 32 0x00C 32#32 :: (List.range 8).map fun k =>
      .write 32 (0x020 + 4 * k)
        (leWord (key.getD (4 * k) 0#8) (key.getD (4 * k + 1) 0#8) (key.getD (4 * k + 2) 0#8) (key.getD (4 * k + 3) 0#8))) ∧
  (∀ b : List Byte, b.length = 16 →
    pseudoSetBlock b = (List.range 4).map fun k =>
      .write 32 (0x040 + 4 * k)
        (leWord (b.getD (4 * k) 0#8) (b.getD (4 * k + 1) 0#8) (b.getD (4 * k + 2) 0#8) (b.getD (4 * k + 3) 0#8))) ∧
  ∀ src dst len : Word,
    pseudoSetBuf src dst len = [.write 32 0x014 src, .write 32 0x018 dst, .write 32 0x010 len]

/-- R210, R240, R241: the host that reads STATUS with BUSY = 0 has observed completion and may touch the ranges again; one that
reads BUSY = 1 may not. The host that samples an input of its interrupt system reads 1 exactly when IRQ is routed to that input and
high, and has then observed completion; else it reads 0 and may touch no more than before. How the model records it, and that it
samples, are its own (log entries 5 and 6). -/
def Obligations.ObservedCompletionReleasesTheRanges : Prop :=
  (∀ (s : State) (ts : List Agent) (x : Nat), s.Inv → s.turns = .host :: ts → s.host.current = some (.read 32 0x008 x) →
    ∃ t, step s = .next t ∧ lookup t.host.env x = some (.word (statusWord s.eng)) ∧
      (s.eng.busy = false → t.owned = []) ∧ (s.eng.busy = true → t.owned = s.owned)) ∧
  ∀ (s : State) (ts : List Agent) (n x : Nat), s.turns = .host :: ts → s.host.current = some (.irq n x) →
    (s.cfg.irqRoute = some n ∧ s.eng.ie = true ∧ s.eng.done = true →
      step s =
        .next
          { s with
            turns := ts, owned := []
            host := { s.host with pc := s.host.pc + 1, env := (x, .word 1#32) :: s.host.env } }) ∧
    (¬(s.cfg.irqRoute = some n ∧ s.eng.ie = true ∧ s.eng.done = true) →
      step s =
        .next
          { s with
            turns := ts
            host := { s.host with pc := s.host.pc + 1, env := (x, .word 0#32) :: s.host.env } })

/-! ## Invariants and whole commands -/

/-- R41, R42, R46: the invariant holds after RESET. -/
def Obligations.ResetMeetsTheInvariant : Prop := State.reset.Inv

/-- R41, R42, R28, R33, R124, R241: every step of the machine, of any agent, keeps the invariant. -/
def Obligations.StepKeepsTheInvariant : Prop := ∀ s t : State, s.Inv → step s = .next t → t.Inv

/-- R173, R167, R168, R169, R181: ECB_ENCRYPT with a schedule held, a valid length, buffers the memory answers for, and ranges
that are apart or equal, completes in 1 + N ENGINE steps: every destination block is the transform of its source block as it was, no
byte outside the destination changes, BLKCNT is N. -/
def Obligations.EcbEncryptRunsToCompletion : Prop :=
  ∀ (s : State) (ts : List Agent), s.Inv → s.eng.phase = .start → s.eng.op = .cmd .ecbEncrypt → s.eng.keyvalid = true →
    lenOk s.eng = true → s.eng.buffersOk s.cfg → (s.eng.rangesApart ∨ s.eng.src = s.eng.dst) →
    s.turns = List.replicate (1 + blockCount s.eng) .engine ++ ts →
    ∃ t, Host.Core.run Sys2Proof.core (1 + blockCount s.eng) s = .next t ∧ t.turns = ts ∧
      t.eng =
        { s.eng with
          blkcnt := BitVec.ofNat 32 (blockCount s.eng), blk := blockCount s.eng, work := t.eng.work,
          phase := .idle, busy := false, done := true, errcode := .ok } ∧
      EncryptsBuffer s.eng s.eng.rks s.eng.rounds.toNat s.mem t.mem ∧
      ∀ a, inRange s.eng.dst s.eng.len a = false → t.mem.read a.toNat = s.mem.read a.toNat

/-- R174, R166 to R169, R181: ENCRYPT with a valid key length and buffer length, under the same conditions, completes in 2 + N ENGINE
steps with the schedule of the key registers. -/
def Obligations.EncryptRunsToCompletion : Prop :=
  ∀ (s : State) (ts : List Agent), s.Inv → s.eng.phase = .start → s.eng.op = .cmd .encrypt → keylenOk s.eng = true →
    lenOk s.eng = true → s.eng.buffersOk s.cfg → (s.eng.rangesApart ∨ s.eng.src = s.eng.dst) →
    s.turns = List.replicate (2 + blockCount s.eng) .engine ++ ts →
    ∃ t, Host.Core.run Sys2Proof.core (2 + blockCount s.eng) s = .next t ∧ t.turns = ts ∧
      t.eng =
        { s.eng with
          rks := if s.eng.keylen = 16#8 then keyExpansion128 (keyBytes s.eng)
            else keyExpansion256 s.cfg.ks256Mode (keyBytes s.eng)
          rounds := if s.eng.keylen = 16#8 then 10#8 else 14#8
          keyvalid := true
          blkcnt := BitVec.ofNat 32 (blockCount s.eng), blk := blockCount s.eng, work := t.eng.work,
          phase := .idle, busy := false, done := true, errcode := .ok } ∧
      EncryptsBuffer s.eng t.eng.rks (if s.eng.keylen = 16#8 then 10 else 14) s.mem t.mem ∧
      ∀ a, inRange s.eng.dst s.eng.len a = false → t.mem.read a.toNat = s.mem.read a.toNat
end

