-- ==== Sys2Proof/Laws/Datapath.lean ====
section
/-! SUPPORT. Laws/Datapath.lean: laws of the byte functions, of the schedules and of the round operations (40_sbox_gf28.md,
41_key_schedule.md, 42_round_pipeline.md). -/

namespace Sys2Proof.Machine

/-! ## Bytes -/

/-- R110: doubling is linear. -/
theorem xtime_xor (a b : Byte) : xtime (a ^^^ b) = xtime a ^^^ xtime b := by
  unfold xtime
  rw [BitVec.getLsbD_xor, BitVec.shiftLeft_xor_distrib]
  cases a.getLsbD 7 <;> cases b.getLsbD 7 <;> simp
  · rw [← BitVec.xor_assoc]
  · rw [BitVec.xor_assoc, BitVec.xor_assoc, BitVec.xor_comm (b <<< 1)]
  · rw [BitVec.xor_assoc (a <<< 1), BitVec.xor_comm (0x1B#8), BitVec.xor_assoc (b <<< 1)]; simp

/-- R106, R110: so is multiplication by 3. -/
theorem mul3_xor (a b : Byte) : mul3 (a ^^^ b) = mul3 a ^^^ mul3 b := by
  unfold mul3; rw [xtime_xor]; ac_rfl

theorem getElem_index {n : Nat} {α : Type} (v : Vector α n) {i j : Nat} (h : i = j) (hi : i < n) :
    v[i] = v[j]'(h ▸ hi) := by subst h; rfl

/-! ## Schedules -/

theorem rksByte_lt (rks : Schedule) {i : Nat} (h : i < 240) : rksByte rks i = rks[i] := by
  simp [rksByte, List.getD, h]

theorem scheduleOfBlocks_byte (bs : List Block) {i : Nat} (h : i < 240) :
    (scheduleOfBlocks bs)[i] = (bs.getD (i / 16) zeroBlock)[i % 16] := by
  simp [scheduleOfBlocks]

theorem scheduleOfKWords_byte (ws : List KWord) {i : Nat} (h : i < 240) :
    (scheduleOfKWords ws)[i] = (ws.getD (i / 4) zeroKWord)[i % 4] := by
  simp [scheduleOfKWords]

/-- R129: round-key block r of a schedule of blocks is block r. -/
theorem roundKey_scheduleOfBlocks (bs : List Block) (r : Nat) (h : r < 15) :
    roundKey (scheduleOfBlocks bs) r = bs.getD r zeroBlock := by
  apply Vector.ext
  intro i hi
  have h1 : (16 * r + i) / 16 = r := by omega
  have h2 : (16 * r + i) % 16 = i := by omega
  simp only [roundKey, Vector.getElem_ofFn]
  rw [rksByte_lt _ (by omega), scheduleOfBlocks_byte _ (by omega), getElem_index _ h2 (by omega), h1]

/-- R127: word i of a schedule of words is word i. -/
theorem rksWord_scheduleOfKWords (ws : List KWord) (i : Nat) (h : i < 60) :
    rksWord (scheduleOfKWords ws) i = ws.getD i zeroKWord := by
  have e : ∀ j (hj : j < 4), rksByte (scheduleOfKWords ws) (4 * i + j) = (ws.getD i zeroKWord)[j] := by
    intro j hj
    have h1 : (4 * i + j) / 4 = i := by omega
    have h2 : (4 * i + j) % 4 = j := by omega
    rw [rksByte_lt _ (by omega), scheduleOfKWords_byte _ (by omega), getElem_index _ h2 (by omega), h1]
  have e0 := e 0 (by omega)
  simp only [Nat.add_zero] at e0
  generalize scheduleOfKWords ws = rks at e0 e ⊢
  generalize ws.getD i zeroKWord = w at e0 e ⊢
  apply Vector.ext
  intro j hj
  match j, hj with
  | 0, _ => exact e0
  | 1, _ => exact e 1 (by omega)
  | 2, _ => exact e 2 (by omega)
  | 3, _ => exact e 3 (by omega)

theorem blockChain_length : ∀ (n r : Nat) (p : Block), (blockChain n r p).length = n + 1
  | 0, _, _ => rfl
  | n + 1, r, p => by simp [blockChain, blockChain_length n]

theorem blockChain_zero : ∀ (n r : Nat) (p : Block), (blockChain n r p).getD 0 zeroBlock = p
  | 0, _, _ => rfl
  | _ + 1, _, _ => rfl

/-- R124, R126: each block is made from the one before it. -/
theorem blockChain_succ : ∀ (n r : Nat) (p : Block) (k : Nat), k < n →
    (blockChain n r p).getD (k + 1) zeroBlock = nextBlock ((blockChain n r p).getD k zeroBlock) (r + k)
  | 0, _, _, _, h => by omega
  | n + 1, r, p, 0, _ => by
    simp only [blockChain, List.getD_cons_succ, List.getD_cons_zero]
    rw [blockChain_zero]
    simp
  | n + 1, r, p, k + 1, h => by
    simp only [blockChain, List.getD_cons_succ]
    rw [blockChain_succ n (r + 1) _ k (by omega)]
    congr 1
    omega

/-- R127, R128: every word after the key makes the list one longer. -/
theorem nk8_length (sub : Bool) (ws : List KWord) :
    ∀ (n k : Nat), ((List.range' k n).foldl (nk8Extend sub) ws).length = ws.length + n
  | 0, _ => rfl
  | n + 1, k => by
    rw [List.range'_concat, List.foldl_append]
    simp only [List.foldl_cons, List.foldl_nil]
    rw [nk8Extend, List.length_append, nk8_length sub ws n k]
    simp
    omega

end Sys2Proof.Machine
end

