-- ==== Sys2Proof/Laws/State.lean ====
section
/-! SUPPORT. Laws/State.lean: for every update of Machine/Ops.lean, what each field of the state is after it. -/

namespace Sys2Proof.Machine

section
variable (e : Engine) (o : Op)

@[simp] theorem Engine.accept_ie : (e.accept o).ie = e.ie := rfl
@[simp] theorem Engine.accept_keylen : (e.accept o).keylen = e.keylen := rfl
@[simp] theorem Engine.accept_len : (e.accept o).len = e.len := rfl
@[simp] theorem Engine.accept_src : (e.accept o).src = e.src := rfl
@[simp] theorem Engine.accept_dst : (e.accept o).dst = e.dst := rfl
@[simp] theorem Engine.accept_blkcnt : (e.accept o).blkcnt = if isBufferCmd o then 0#32 else e.blkcnt := rfl
@[simp] theorem Engine.accept_key : (e.accept o).key = e.key := rfl
@[simp] theorem Engine.accept_din : (e.accept o).din = e.din := rfl
@[simp] theorem Engine.accept_dout : (e.accept o).dout = e.dout := rfl
@[simp] theorem Engine.accept_rks : (e.accept o).rks = e.rks := rfl
@[simp] theorem Engine.accept_phase : (e.accept o).phase = .start := rfl
@[simp] theorem Engine.accept_op : (e.accept o).op = o := rfl
@[simp] theorem Engine.accept_blk : (e.accept o).blk = 0 := rfl
@[simp] theorem Engine.accept_busy : (e.accept o).busy = true := rfl
@[simp] theorem Engine.accept_done : (e.accept o).done = false := rfl
@[simp] theorem Engine.accept_keyvalid : (e.accept o).keyvalid = e.keyvalid := rfl
@[simp] theorem Engine.accept_errcode : (e.accept o).errcode = .ok := rfl
@[simp] theorem Engine.accept_rounds : (e.accept o).rounds = e.rounds := rfl
@[simp] theorem Engine.accept_work : (e.accept o).work = e.work := rfl

end

section
variable (e : Engine) (c : ErrCode)

@[simp] theorem Engine.finish_ie : (e.finish c).ie = e.ie := rfl
@[simp] theorem Engine.finish_keylen : (e.finish c).keylen = e.keylen := rfl
@[simp] theorem Engine.finish_len : (e.finish c).len = e.len := rfl
@[simp] theorem Engine.finish_src : (e.finish c).src = e.src := rfl
@[simp] theorem Engine.finish_dst : (e.finish c).dst = e.dst := rfl
@[simp] theorem Engine.finish_blkcnt : (e.finish c).blkcnt = e.blkcnt := rfl
@[simp] theorem Engine.finish_key : (e.finish c).key = e.key := rfl
@[simp] theorem Engine.finish_din : (e.finish c).din = e.din := rfl
@[simp] theorem Engine.finish_dout : (e.finish c).dout = e.dout := rfl
@[simp] theorem Engine.finish_rks : (e.finish c).rks = e.rks := rfl
@[simp] theorem Engine.finish_phase : (e.finish c).phase = .idle := rfl
@[simp] theorem Engine.finish_op : (e.finish c).op = e.op := rfl
@[simp] theorem Engine.finish_blk : (e.finish c).blk = e.blk := rfl
@[simp] theorem Engine.finish_busy : (e.finish c).busy = false := rfl
@[simp] theorem Engine.finish_done : (e.finish c).done = true := rfl
@[simp] theorem Engine.finish_keyvalid : (e.finish c).keyvalid = e.keyvalid := rfl
@[simp] theorem Engine.finish_errcode : (e.finish c).errcode = c := rfl
@[simp] theorem Engine.finish_rounds : (e.finish c).rounds = e.rounds := rfl
@[simp] theorem Engine.finish_work : (e.finish c).work = e.work := rfl

end

section
variable (e : Engine)

@[simp] theorem Engine.ack_ie : (e.ack).ie = e.ie := rfl
@[simp] theorem Engine.ack_keylen : (e.ack).keylen = e.keylen := rfl
@[simp] theorem Engine.ack_len : (e.ack).len = e.len := rfl
@[simp] theorem Engine.ack_src : (e.ack).src = e.src := rfl
@[simp] theorem Engine.ack_dst : (e.ack).dst = e.dst := rfl
@[simp] theorem Engine.ack_blkcnt : (e.ack).blkcnt = e.blkcnt := rfl
@[simp] theorem Engine.ack_key : (e.ack).key = e.key := rfl
@[simp] theorem Engine.ack_din : (e.ack).din = e.din := rfl
@[simp] theorem Engine.ack_dout : (e.ack).dout = e.dout := rfl
@[simp] theorem Engine.ack_rks : (e.ack).rks = e.rks := rfl
@[simp] theorem Engine.ack_phase : (e.ack).phase = e.phase := rfl
@[simp] theorem Engine.ack_op : (e.ack).op = e.op := rfl
@[simp] theorem Engine.ack_blk : (e.ack).blk = e.blk := rfl
@[simp] theorem Engine.ack_busy : (e.ack).busy = e.busy := rfl
@[simp] theorem Engine.ack_done : (e.ack).done = false := rfl
@[simp] theorem Engine.ack_keyvalid : (e.ack).keyvalid = e.keyvalid := rfl
@[simp] theorem Engine.ack_errcode : (e.ack).errcode = e.errcode := rfl
@[simp] theorem Engine.ack_rounds : (e.ack).rounds = e.rounds := rfl
@[simp] theorem Engine.ack_work : (e.ack).work = e.work := rfl

end

section
variable (e : Engine) (p : Phase)

@[simp] theorem Engine.enter_ie : (e.enter p).ie = e.ie := rfl
@[simp] theorem Engine.enter_keylen : (e.enter p).keylen = e.keylen := rfl
@[simp] theorem Engine.enter_len : (e.enter p).len = e.len := rfl
@[simp] theorem Engine.enter_src : (e.enter p).src = e.src := rfl
@[simp] theorem Engine.enter_dst : (e.enter p).dst = e.dst := rfl
@[simp] theorem Engine.enter_blkcnt : (e.enter p).blkcnt = e.blkcnt := rfl
@[simp] theorem Engine.enter_key : (e.enter p).key = e.key := rfl
@[simp] theorem Engine.enter_din : (e.enter p).din = e.din := rfl
@[simp] theorem Engine.enter_dout : (e.enter p).dout = e.dout := rfl
@[simp] theorem Engine.enter_rks : (e.enter p).rks = e.rks := rfl
@[simp] theorem Engine.enter_phase : (e.enter p).phase = p := rfl
@[simp] theorem Engine.enter_op : (e.enter p).op = e.op := rfl
@[simp] theorem Engine.enter_blk : (e.enter p).blk = e.blk := rfl
@[simp] theorem Engine.enter_busy : (e.enter p).busy = e.busy := rfl
@[simp] theorem Engine.enter_done : (e.enter p).done = e.done := rfl
@[simp] theorem Engine.enter_keyvalid : (e.enter p).keyvalid = e.keyvalid := rfl
@[simp] theorem Engine.enter_errcode : (e.enter p).errcode = e.errcode := rfl
@[simp] theorem Engine.enter_rounds : (e.enter p).rounds = e.rounds := rfl
@[simp] theorem Engine.enter_work : (e.enter p).work = e.work := rfl

end

section
variable (e : Engine)

@[simp] theorem Engine.enterBlocks_ie : (e.enterBlocks).ie = e.ie := rfl
@[simp] theorem Engine.enterBlocks_keylen : (e.enterBlocks).keylen = e.keylen := rfl
@[simp] theorem Engine.enterBlocks_len : (e.enterBlocks).len = e.len := rfl
@[simp] theorem Engine.enterBlocks_src : (e.enterBlocks).src = e.src := rfl
@[simp] theorem Engine.enterBlocks_dst : (e.enterBlocks).dst = e.dst := rfl
@[simp] theorem Engine.enterBlocks_blkcnt : (e.enterBlocks).blkcnt = e.blkcnt := rfl
@[simp] theorem Engine.enterBlocks_key : (e.enterBlocks).key = e.key := rfl
@[simp] theorem Engine.enterBlocks_din : (e.enterBlocks).din = e.din := rfl
@[simp] theorem Engine.enterBlocks_dout : (e.enterBlocks).dout = e.dout := rfl
@[simp] theorem Engine.enterBlocks_rks : (e.enterBlocks).rks = e.rks := rfl
@[simp] theorem Engine.enterBlocks_phase : (e.enterBlocks).phase = .block := rfl
@[simp] theorem Engine.enterBlocks_op : (e.enterBlocks).op = e.op := rfl
@[simp] theorem Engine.enterBlocks_blk : (e.enterBlocks).blk = 0 := rfl
@[simp] theorem Engine.enterBlocks_busy : (e.enterBlocks).busy = e.busy := rfl
@[simp] theorem Engine.enterBlocks_done : (e.enterBlocks).done = e.done := rfl
@[simp] theorem Engine.enterBlocks_keyvalid : (e.enterBlocks).keyvalid = e.keyvalid := rfl
@[simp] theorem Engine.enterBlocks_errcode : (e.enterBlocks).errcode = e.errcode := rfl
@[simp] theorem Engine.enterBlocks_rounds : (e.enterBlocks).rounds = e.rounds := rfl
@[simp] theorem Engine.enterBlocks_work : (e.enterBlocks).work = e.work := rfl

end

section
variable (e : Engine) (k : Schedule) (r : BitVec 8)

@[simp] theorem Engine.loadSchedule_ie : (e.loadSchedule k r).ie = e.ie := rfl
@[simp] theorem Engine.loadSchedule_keylen : (e.loadSchedule k r).keylen = e.keylen := rfl
@[simp] theorem Engine.loadSchedule_len : (e.loadSchedule k r).len = e.len := rfl
@[simp] theorem Engine.loadSchedule_src : (e.loadSchedule k r).src = e.src := rfl
@[simp] theorem Engine.loadSchedule_dst : (e.loadSchedule k r).dst = e.dst := rfl
@[simp] theorem Engine.loadSchedule_blkcnt : (e.loadSchedule k r).blkcnt = e.blkcnt := rfl
@[simp] theorem Engine.loadSchedule_key : (e.loadSchedule k r).key = e.key := rfl
@[simp] theorem Engine.loadSchedule_din : (e.loadSchedule k r).din = e.din := rfl
@[simp] theorem Engine.loadSchedule_dout : (e.loadSchedule k r).dout = e.dout := rfl
@[simp] theorem Engine.loadSchedule_rks : (e.loadSchedule k r).rks = k := rfl
@[simp] theorem Engine.loadSchedule_phase : (e.loadSchedule k r).phase = e.phase := rfl
@[simp] theorem Engine.loadSchedule_op : (e.loadSchedule k r).op = e.op := rfl
@[simp] theorem Engine.loadSchedule_blk : (e.loadSchedule k r).blk = e.blk := rfl
@[simp] theorem Engine.loadSchedule_busy : (e.loadSchedule k r).busy = e.busy := rfl
@[simp] theorem Engine.loadSchedule_done : (e.loadSchedule k r).done = e.done := rfl
@[simp] theorem Engine.loadSchedule_keyvalid : (e.loadSchedule k r).keyvalid = true := rfl
@[simp] theorem Engine.loadSchedule_errcode : (e.loadSchedule k r).errcode = e.errcode := rfl
@[simp] theorem Engine.loadSchedule_rounds : (e.loadSchedule k r).rounds = r := rfl
@[simp] theorem Engine.loadSchedule_work : (e.loadSchedule k r).work = e.work := rfl

end

section
variable (e : Engine)

@[simp] theorem Engine.clearContext_ie : (e.clearContext).ie = e.ie := rfl
@[simp] theorem Engine.clearContext_keylen : (e.clearContext).keylen = e.keylen := rfl
@[simp] theorem Engine.clearContext_len : (e.clearContext).len = e.len := rfl
@[simp] theorem Engine.clearContext_src : (e.clearContext).src = e.src := rfl
@[simp] theorem Engine.clearContext_dst : (e.clearContext).dst = e.dst := rfl
@[simp] theorem Engine.clearContext_blkcnt : (e.clearContext).blkcnt = e.blkcnt := rfl
@[simp] theorem Engine.clearContext_key : (e.clearContext).key = Vector.replicate 8 0#32 := rfl
@[simp] theorem Engine.clearContext_din : (e.clearContext).din = Vector.replicate 4 0#32 := rfl
@[simp] theorem Engine.clearContext_dout : (e.clearContext).dout = Vector.replicate 4 0#32 := rfl
@[simp] theorem Engine.clearContext_rks : (e.clearContext).rks = Vector.replicate 240 0#8 := rfl
@[simp] theorem Engine.clearContext_phase : (e.clearContext).phase = e.phase := rfl
@[simp] theorem Engine.clearContext_op : (e.clearContext).op = e.op := rfl
@[simp] theorem Engine.clearContext_blk : (e.clearContext).blk = e.blk := rfl
@[simp] theorem Engine.clearContext_busy : (e.clearContext).busy = e.busy := rfl
@[simp] theorem Engine.clearContext_done : (e.clearContext).done = e.done := rfl
@[simp] theorem Engine.clearContext_keyvalid : (e.clearContext).keyvalid = false := rfl
@[simp] theorem Engine.clearContext_errcode : (e.clearContext).errcode = e.errcode := rfl
@[simp] theorem Engine.clearContext_rounds : (e.clearContext).rounds = 0#8 := rfl
@[simp] theorem Engine.clearContext_work : (e.clearContext).work = e.work := rfl

end

section
variable (e : Engine) (b : Block)

@[simp] theorem Engine.setOutput_ie : (e.setOutput b).ie = e.ie := rfl
@[simp] theorem Engine.setOutput_keylen : (e.setOutput b).keylen = e.keylen := rfl
@[simp] theorem Engine.setOutput_len : (e.setOutput b).len = e.len := rfl
@[simp] theorem Engine.setOutput_src : (e.setOutput b).src = e.src := rfl
@[simp] theorem Engine.setOutput_dst : (e.setOutput b).dst = e.dst := rfl
@[simp] theorem Engine.setOutput_blkcnt : (e.setOutput b).blkcnt = e.blkcnt := rfl
@[simp] theorem Engine.setOutput_key : (e.setOutput b).key = e.key := rfl
@[simp] theorem Engine.setOutput_din : (e.setOutput b).din = e.din := rfl
@[simp] theorem Engine.setOutput_dout : (e.setOutput b).dout = outputWords b := rfl
@[simp] theorem Engine.setOutput_rks : (e.setOutput b).rks = e.rks := rfl
@[simp] theorem Engine.setOutput_phase : (e.setOutput b).phase = e.phase := rfl
@[simp] theorem Engine.setOutput_op : (e.setOutput b).op = e.op := rfl
@[simp] theorem Engine.setOutput_blk : (e.setOutput b).blk = e.blk := rfl
@[simp] theorem Engine.setOutput_busy : (e.setOutput b).busy = e.busy := rfl
@[simp] theorem Engine.setOutput_done : (e.setOutput b).done = e.done := rfl
@[simp] theorem Engine.setOutput_keyvalid : (e.setOutput b).keyvalid = e.keyvalid := rfl
@[simp] theorem Engine.setOutput_errcode : (e.setOutput b).errcode = e.errcode := rfl
@[simp] theorem Engine.setOutput_rounds : (e.setOutput b).rounds = e.rounds := rfl
@[simp] theorem Engine.setOutput_work : (e.setOutput b).work = e.work := rfl

end

section
variable (e : Engine) (b : Block)

@[simp] theorem Engine.setWork_ie : (e.setWork b).ie = e.ie := rfl
@[simp] theorem Engine.setWork_keylen : (e.setWork b).keylen = e.keylen := rfl
@[simp] theorem Engine.setWork_len : (e.setWork b).len = e.len := rfl
@[simp] theorem Engine.setWork_src : (e.setWork b).src = e.src := rfl
@[simp] theorem Engine.setWork_dst : (e.setWork b).dst = e.dst := rfl
@[simp] theorem Engine.setWork_blkcnt : (e.setWork b).blkcnt = e.blkcnt := rfl
@[simp] theorem Engine.setWork_key : (e.setWork b).key = e.key := rfl
@[simp] theorem Engine.setWork_din : (e.setWork b).din = e.din := rfl
@[simp] theorem Engine.setWork_dout : (e.setWork b).dout = e.dout := rfl
@[simp] theorem Engine.setWork_rks : (e.setWork b).rks = e.rks := rfl
@[simp] theorem Engine.setWork_phase : (e.setWork b).phase = e.phase := rfl
@[simp] theorem Engine.setWork_op : (e.setWork b).op = e.op := rfl
@[simp] theorem Engine.setWork_blk : (e.setWork b).blk = e.blk := rfl
@[simp] theorem Engine.setWork_busy : (e.setWork b).busy = e.busy := rfl
@[simp] theorem Engine.setWork_done : (e.setWork b).done = e.done := rfl
@[simp] theorem Engine.setWork_keyvalid : (e.setWork b).keyvalid = e.keyvalid := rfl
@[simp] theorem Engine.setWork_errcode : (e.setWork b).errcode = e.errcode := rfl
@[simp] theorem Engine.setWork_rounds : (e.setWork b).rounds = e.rounds := rfl
@[simp] theorem Engine.setWork_work : (e.setWork b).work = b := rfl

end

section
variable (e : Engine) (i : Nat)

@[simp] theorem Engine.countBlock_ie : (e.countBlock i).ie = e.ie := rfl
@[simp] theorem Engine.countBlock_keylen : (e.countBlock i).keylen = e.keylen := rfl
@[simp] theorem Engine.countBlock_len : (e.countBlock i).len = e.len := rfl
@[simp] theorem Engine.countBlock_src : (e.countBlock i).src = e.src := rfl
@[simp] theorem Engine.countBlock_dst : (e.countBlock i).dst = e.dst := rfl
@[simp] theorem Engine.countBlock_blkcnt : (e.countBlock i).blkcnt = BitVec.ofNat 32 (i + 1) := rfl
@[simp] theorem Engine.countBlock_key : (e.countBlock i).key = e.key := rfl
@[simp] theorem Engine.countBlock_din : (e.countBlock i).din = e.din := rfl
@[simp] theorem Engine.countBlock_dout : (e.countBlock i).dout = e.dout := rfl
@[simp] theorem Engine.countBlock_rks : (e.countBlock i).rks = e.rks := rfl
@[simp] theorem Engine.countBlock_phase : (e.countBlock i).phase = e.phase := rfl
@[simp] theorem Engine.countBlock_op : (e.countBlock i).op = e.op := rfl
@[simp] theorem Engine.countBlock_blk : (e.countBlock i).blk = i + 1 := rfl
@[simp] theorem Engine.countBlock_busy : (e.countBlock i).busy = e.busy := rfl
@[simp] theorem Engine.countBlock_done : (e.countBlock i).done = e.done := rfl
@[simp] theorem Engine.countBlock_keyvalid : (e.countBlock i).keyvalid = e.keyvalid := rfl
@[simp] theorem Engine.countBlock_errcode : (e.countBlock i).errcode = e.errcode := rfl
@[simp] theorem Engine.countBlock_rounds : (e.countBlock i).rounds = e.rounds := rfl
@[simp] theorem Engine.countBlock_work : (e.countBlock i).work = e.work := rfl

end

section
variable (e : Engine) (b : Bool)

@[simp] theorem Engine.setIe_ie : (e.setIe b).ie = b := rfl
@[simp] theorem Engine.setIe_keylen : (e.setIe b).keylen = e.keylen := rfl
@[simp] theorem Engine.setIe_len : (e.setIe b).len = e.len := rfl
@[simp] theorem Engine.setIe_src : (e.setIe b).src = e.src := rfl
@[simp] theorem Engine.setIe_dst : (e.setIe b).dst = e.dst := rfl
@[simp] theorem Engine.setIe_blkcnt : (e.setIe b).blkcnt = e.blkcnt := rfl
@[simp] theorem Engine.setIe_key : (e.setIe b).key = e.key := rfl
@[simp] theorem Engine.setIe_din : (e.setIe b).din = e.din := rfl
@[simp] theorem Engine.setIe_dout : (e.setIe b).dout = e.dout := rfl
@[simp] theorem Engine.setIe_rks : (e.setIe b).rks = e.rks := rfl
@[simp] theorem Engine.setIe_phase : (e.setIe b).phase = e.phase := rfl
@[simp] theorem Engine.setIe_op : (e.setIe b).op = e.op := rfl
@[simp] theorem Engine.setIe_blk : (e.setIe b).blk = e.blk := rfl
@[simp] theorem Engine.setIe_busy : (e.setIe b).busy = e.busy := rfl
@[simp] theorem Engine.setIe_done : (e.setIe b).done = e.done := rfl
@[simp] theorem Engine.setIe_keyvalid : (e.setIe b).keyvalid = e.keyvalid := rfl
@[simp] theorem Engine.setIe_errcode : (e.setIe b).errcode = e.errcode := rfl
@[simp] theorem Engine.setIe_rounds : (e.setIe b).rounds = e.rounds := rfl
@[simp] theorem Engine.setIe_work : (e.setIe b).work = e.work := rfl

end

section
variable (e : Engine) (v : BitVec 8)

@[simp] theorem Engine.setKeylen_ie : (e.setKeylen v).ie = e.ie := rfl
@[simp] theorem Engine.setKeylen_keylen : (e.setKeylen v).keylen = v := rfl
@[simp] theorem Engine.setKeylen_len : (e.setKeylen v).len = e.len := rfl
@[simp] theorem Engine.setKeylen_src : (e.setKeylen v).src = e.src := rfl
@[simp] theorem Engine.setKeylen_dst : (e.setKeylen v).dst = e.dst := rfl
@[simp] theorem Engine.setKeylen_blkcnt : (e.setKeylen v).blkcnt = e.blkcnt := rfl
@[simp] theorem Engine.setKeylen_key : (e.setKeylen v).key = e.key := rfl
@[simp] theorem Engine.setKeylen_din : (e.setKeylen v).din = e.din := rfl
@[simp] theorem Engine.setKeylen_dout : (e.setKeylen v).dout = e.dout := rfl
@[simp] theorem Engine.setKeylen_rks : (e.setKeylen v).rks = e.rks := rfl
@[simp] theorem Engine.setKeylen_phase : (e.setKeylen v).phase = e.phase := rfl
@[simp] theorem Engine.setKeylen_op : (e.setKeylen v).op = e.op := rfl
@[simp] theorem Engine.setKeylen_blk : (e.setKeylen v).blk = e.blk := rfl
@[simp] theorem Engine.setKeylen_busy : (e.setKeylen v).busy = e.busy := rfl
@[simp] theorem Engine.setKeylen_done : (e.setKeylen v).done = e.done := rfl
@[simp] theorem Engine.setKeylen_keyvalid : (e.setKeylen v).keyvalid = e.keyvalid := rfl
@[simp] theorem Engine.setKeylen_errcode : (e.setKeylen v).errcode = e.errcode := rfl
@[simp] theorem Engine.setKeylen_rounds : (e.setKeylen v).rounds = e.rounds := rfl
@[simp] theorem Engine.setKeylen_work : (e.setKeylen v).work = e.work := rfl

end

section
variable (e : Engine) (v : Word)

@[simp] theorem Engine.setLen_ie : (e.setLen v).ie = e.ie := rfl
@[simp] theorem Engine.setLen_keylen : (e.setLen v).keylen = e.keylen := rfl
@[simp] theorem Engine.setLen_len : (e.setLen v).len = v := rfl
@[simp] theorem Engine.setLen_src : (e.setLen v).src = e.src := rfl
@[simp] theorem Engine.setLen_dst : (e.setLen v).dst = e.dst := rfl
@[simp] theorem Engine.setLen_blkcnt : (e.setLen v).blkcnt = e.blkcnt := rfl
@[simp] theorem Engine.setLen_key : (e.setLen v).key = e.key := rfl
@[simp] theorem Engine.setLen_din : (e.setLen v).din = e.din := rfl
@[simp] theorem Engine.setLen_dout : (e.setLen v).dout = e.dout := rfl
@[simp] theorem Engine.setLen_rks : (e.setLen v).rks = e.rks := rfl
@[simp] theorem Engine.setLen_phase : (e.setLen v).phase = e.phase := rfl
@[simp] theorem Engine.setLen_op : (e.setLen v).op = e.op := rfl
@[simp] theorem Engine.setLen_blk : (e.setLen v).blk = e.blk := rfl
@[simp] theorem Engine.setLen_busy : (e.setLen v).busy = e.busy := rfl
@[simp] theorem Engine.setLen_done : (e.setLen v).done = e.done := rfl
@[simp] theorem Engine.setLen_keyvalid : (e.setLen v).keyvalid = e.keyvalid := rfl
@[simp] theorem Engine.setLen_errcode : (e.setLen v).errcode = e.errcode := rfl
@[simp] theorem Engine.setLen_rounds : (e.setLen v).rounds = e.rounds := rfl
@[simp] theorem Engine.setLen_work : (e.setLen v).work = e.work := rfl

end

section
variable (e : Engine) (v : Word)

@[simp] theorem Engine.setSrc_ie : (e.setSrc v).ie = e.ie := rfl
@[simp] theorem Engine.setSrc_keylen : (e.setSrc v).keylen = e.keylen := rfl
@[simp] theorem Engine.setSrc_len : (e.setSrc v).len = e.len := rfl
@[simp] theorem Engine.setSrc_src : (e.setSrc v).src = v := rfl
@[simp] theorem Engine.setSrc_dst : (e.setSrc v).dst = e.dst := rfl
@[simp] theorem Engine.setSrc_blkcnt : (e.setSrc v).blkcnt = e.blkcnt := rfl
@[simp] theorem Engine.setSrc_key : (e.setSrc v).key = e.key := rfl
@[simp] theorem Engine.setSrc_din : (e.setSrc v).din = e.din := rfl
@[simp] theorem Engine.setSrc_dout : (e.setSrc v).dout = e.dout := rfl
@[simp] theorem Engine.setSrc_rks : (e.setSrc v).rks = e.rks := rfl
@[simp] theorem Engine.setSrc_phase : (e.setSrc v).phase = e.phase := rfl
@[simp] theorem Engine.setSrc_op : (e.setSrc v).op = e.op := rfl
@[simp] theorem Engine.setSrc_blk : (e.setSrc v).blk = e.blk := rfl
@[simp] theorem Engine.setSrc_busy : (e.setSrc v).busy = e.busy := rfl
@[simp] theorem Engine.setSrc_done : (e.setSrc v).done = e.done := rfl
@[simp] theorem Engine.setSrc_keyvalid : (e.setSrc v).keyvalid = e.keyvalid := rfl
@[simp] theorem Engine.setSrc_errcode : (e.setSrc v).errcode = e.errcode := rfl
@[simp] theorem Engine.setSrc_rounds : (e.setSrc v).rounds = e.rounds := rfl
@[simp] theorem Engine.setSrc_work : (e.setSrc v).work = e.work := rfl

end

section
variable (e : Engine) (v : Word)

@[simp] theorem Engine.setDst_ie : (e.setDst v).ie = e.ie := rfl
@[simp] theorem Engine.setDst_keylen : (e.setDst v).keylen = e.keylen := rfl
@[simp] theorem Engine.setDst_len : (e.setDst v).len = e.len := rfl
@[simp] theorem Engine.setDst_src : (e.setDst v).src = e.src := rfl
@[simp] theorem Engine.setDst_dst : (e.setDst v).dst = v := rfl
@[simp] theorem Engine.setDst_blkcnt : (e.setDst v).blkcnt = e.blkcnt := rfl
@[simp] theorem Engine.setDst_key : (e.setDst v).key = e.key := rfl
@[simp] theorem Engine.setDst_din : (e.setDst v).din = e.din := rfl
@[simp] theorem Engine.setDst_dout : (e.setDst v).dout = e.dout := rfl
@[simp] theorem Engine.setDst_rks : (e.setDst v).rks = e.rks := rfl
@[simp] theorem Engine.setDst_phase : (e.setDst v).phase = e.phase := rfl
@[simp] theorem Engine.setDst_op : (e.setDst v).op = e.op := rfl
@[simp] theorem Engine.setDst_blk : (e.setDst v).blk = e.blk := rfl
@[simp] theorem Engine.setDst_busy : (e.setDst v).busy = e.busy := rfl
@[simp] theorem Engine.setDst_done : (e.setDst v).done = e.done := rfl
@[simp] theorem Engine.setDst_keyvalid : (e.setDst v).keyvalid = e.keyvalid := rfl
@[simp] theorem Engine.setDst_errcode : (e.setDst v).errcode = e.errcode := rfl
@[simp] theorem Engine.setDst_rounds : (e.setDst v).rounds = e.rounds := rfl
@[simp] theorem Engine.setDst_work : (e.setDst v).work = e.work := rfl

end

section
variable (e : Engine) (k : Fin 8) (v : Word)

@[simp] theorem Engine.setKey_ie : (e.setKey k v).ie = e.ie := rfl
@[simp] theorem Engine.setKey_keylen : (e.setKey k v).keylen = e.keylen := rfl
@[simp] theorem Engine.setKey_len : (e.setKey k v).len = e.len := rfl
@[simp] theorem Engine.setKey_src : (e.setKey k v).src = e.src := rfl
@[simp] theorem Engine.setKey_dst : (e.setKey k v).dst = e.dst := rfl
@[simp] theorem Engine.setKey_blkcnt : (e.setKey k v).blkcnt = e.blkcnt := rfl
@[simp] theorem Engine.setKey_key : (e.setKey k v).key = e.key.set k.val v := rfl
@[simp] theorem Engine.setKey_din : (e.setKey k v).din = e.din := rfl
@[simp] theorem Engine.setKey_dout : (e.setKey k v).dout = e.dout := rfl
@[simp] theorem Engine.setKey_rks : (e.setKey k v).rks = e.rks := rfl
@[simp] theorem Engine.setKey_phase : (e.setKey k v).phase = e.phase := rfl
@[simp] theorem Engine.setKey_op : (e.setKey k v).op = e.op := rfl
@[simp] theorem Engine.setKey_blk : (e.setKey k v).blk = e.blk := rfl
@[simp] theorem Engine.setKey_busy : (e.setKey k v).busy = e.busy := rfl
@[simp] theorem Engine.setKey_done : (e.setKey k v).done = e.done := rfl
@[simp] theorem Engine.setKey_keyvalid : (e.setKey k v).keyvalid = e.keyvalid := rfl
@[simp] theorem Engine.setKey_errcode : (e.setKey k v).errcode = e.errcode := rfl
@[simp] theorem Engine.setKey_rounds : (e.setKey k v).rounds = e.rounds := rfl
@[simp] theorem Engine.setKey_work : (e.setKey k v).work = e.work := rfl

end

section
variable (e : Engine) (k : Fin 4) (v : Word)

@[simp] theorem Engine.setDin_ie : (e.setDin k v).ie = e.ie := rfl
@[simp] theorem Engine.setDin_keylen : (e.setDin k v).keylen = e.keylen := rfl
@[simp] theorem Engine.setDin_len : (e.setDin k v).len = e.len := rfl
@[simp] theorem Engine.setDin_src : (e.setDin k v).src = e.src := rfl
@[simp] theorem Engine.setDin_dst : (e.setDin k v).dst = e.dst := rfl
@[simp] theorem Engine.setDin_blkcnt : (e.setDin k v).blkcnt = e.blkcnt := rfl
@[simp] theorem Engine.setDin_key : (e.setDin k v).key = e.key := rfl
@[simp] theorem Engine.setDin_din : (e.setDin k v).din = e.din.set k.val v := rfl
@[simp] theorem Engine.setDin_dout : (e.setDin k v).dout = e.dout := rfl
@[simp] theorem Engine.setDin_rks : (e.setDin k v).rks = e.rks := rfl
@[simp] theorem Engine.setDin_phase : (e.setDin k v).phase = e.phase := rfl
@[simp] theorem Engine.setDin_op : (e.setDin k v).op = e.op := rfl
@[simp] theorem Engine.setDin_blk : (e.setDin k v).blk = e.blk := rfl
@[simp] theorem Engine.setDin_busy : (e.setDin k v).busy = e.busy := rfl
@[simp] theorem Engine.setDin_done : (e.setDin k v).done = e.done := rfl
@[simp] theorem Engine.setDin_keyvalid : (e.setDin k v).keyvalid = e.keyvalid := rfl
@[simp] theorem Engine.setDin_errcode : (e.setDin k v).errcode = e.errcode := rfl
@[simp] theorem Engine.setDin_rounds : (e.setDin k v).rounds = e.rounds := rfl
@[simp] theorem Engine.setDin_work : (e.setDin k v).work = e.work := rfl

end

section
variable (s : State) (x : Engine)

@[simp] theorem State.setEng_eng : (s.setEng x).eng = x := rfl
@[simp] theorem State.setEng_mem : (s.setEng x).mem = s.mem := rfl
@[simp] theorem State.setEng_host : (s.setEng x).host = s.host := rfl
@[simp] theorem State.setEng_cfg : (s.setEng x).cfg = s.cfg := rfl
@[simp] theorem State.setEng_turns : (s.setEng x).turns = s.turns := rfl
@[simp] theorem State.setEng_owned : (s.setEng x).owned = s.owned := rfl
@[simp] theorem State.setEng_draws : (s.setEng x).draws = s.draws := rfl

end

section
variable (s : State) (x : Memory)

@[simp] theorem State.setMem_eng : (s.setMem x).eng = s.eng := rfl
@[simp] theorem State.setMem_mem : (s.setMem x).mem = x := rfl
@[simp] theorem State.setMem_host : (s.setMem x).host = s.host := rfl
@[simp] theorem State.setMem_cfg : (s.setMem x).cfg = s.cfg := rfl
@[simp] theorem State.setMem_turns : (s.setMem x).turns = s.turns := rfl
@[simp] theorem State.setMem_owned : (s.setMem x).owned = s.owned := rfl
@[simp] theorem State.setMem_draws : (s.setMem x).draws = s.draws := rfl

end

section
variable (s : State) (x : HostAgent)

@[simp] theorem State.setHost_eng : (s.setHost x).eng = s.eng := rfl
@[simp] theorem State.setHost_mem : (s.setHost x).mem = s.mem := rfl
@[simp] theorem State.setHost_host : (s.setHost x).host = x := rfl
@[simp] theorem State.setHost_cfg : (s.setHost x).cfg = s.cfg := rfl
@[simp] theorem State.setHost_turns : (s.setHost x).turns = s.turns := rfl
@[simp] theorem State.setHost_owned : (s.setHost x).owned = s.owned := rfl
@[simp] theorem State.setHost_draws : (s.setHost x).draws = s.draws := rfl

end

section
variable (s : State) (x : List Agent)

@[simp] theorem State.setTurns_eng : (s.setTurns x).eng = s.eng := rfl
@[simp] theorem State.setTurns_mem : (s.setTurns x).mem = s.mem := rfl
@[simp] theorem State.setTurns_host : (s.setTurns x).host = s.host := rfl
@[simp] theorem State.setTurns_cfg : (s.setTurns x).cfg = s.cfg := rfl
@[simp] theorem State.setTurns_turns : (s.setTurns x).turns = x := rfl
@[simp] theorem State.setTurns_owned : (s.setTurns x).owned = s.owned := rfl
@[simp] theorem State.setTurns_draws : (s.setTurns x).draws = s.draws := rfl

end

section
variable (s : State) (x : List Claim)

@[simp] theorem State.setOwned_eng : (s.setOwned x).eng = s.eng := rfl
@[simp] theorem State.setOwned_mem : (s.setOwned x).mem = s.mem := rfl
@[simp] theorem State.setOwned_host : (s.setOwned x).host = s.host := rfl
@[simp] theorem State.setOwned_cfg : (s.setOwned x).cfg = s.cfg := rfl
@[simp] theorem State.setOwned_turns : (s.setOwned x).turns = s.turns := rfl
@[simp] theorem State.setOwned_owned : (s.setOwned x).owned = x := rfl
@[simp] theorem State.setOwned_draws : (s.setOwned x).draws = s.draws := rfl

end

section
variable (s : State) (n : Nat)

@[simp] theorem State.draw_eng : (s.draw n).eng = s.eng := rfl
@[simp] theorem State.draw_mem : (s.draw n).mem = s.mem := rfl
@[simp] theorem State.draw_host : (s.draw n).host = s.host := rfl
@[simp] theorem State.draw_cfg : (s.draw n).cfg = s.cfg := rfl
@[simp] theorem State.draw_turns : (s.draw n).turns = s.turns := rfl
@[simp] theorem State.draw_owned : (s.draw n).owned = s.owned := rfl
@[simp] theorem State.draw_draws : (s.draw n).draws = s.draws + n := rfl

end

section
variable (s : State) (c : ErrCode)

@[simp] theorem State.finish_eng : (s.finish c).eng = s.eng.finish c := rfl
@[simp] theorem State.finish_mem : (s.finish c).mem = s.mem := rfl
@[simp] theorem State.finish_host : (s.finish c).host = s.host := rfl
@[simp] theorem State.finish_cfg : (s.finish c).cfg = s.cfg := rfl
@[simp] theorem State.finish_turns : (s.finish c).turns = s.turns := rfl
@[simp] theorem State.finish_owned : (s.finish c).owned = s.owned := rfl
@[simp] theorem State.finish_draws : (s.finish c).draws = s.draws := rfl

end

section
variable (s : State) (v : Word)

@[simp] theorem State.accept_eng : (s.accept v).eng = s.eng.accept (opOfWord v) := rfl
@[simp] theorem State.accept_mem : (s.accept v).mem = s.mem := rfl
@[simp] theorem State.accept_host : (s.accept v).host = s.host := rfl
@[simp] theorem State.accept_cfg : (s.accept v).cfg = s.cfg := rfl
@[simp] theorem State.accept_turns : (s.accept v).turns = s.turns := rfl
@[simp] theorem State.accept_owned : (s.accept v).owned = acceptClaims s.eng (opOfWord v) s.owned := rfl
@[simp] theorem State.accept_draws : (s.accept v).draws = s.draws := rfl

end

end Sys2Proof.Machine
end

