-- ==== Sys2Proof/Laws/Memory.lean ====
section
/-! SUPPORT. Laws/Memory.lean: the laws of the buffer memory: a read after a write, the canonical form, and what the block
and byte-sequence operations change (rules R66, R70, R71). -/

namespace Sys2Proof.Machine

/-! ## One byte -/

theorem Memory.wfFrom_mono {lo lo' : Nat} (h : lo ≤ lo') : ∀ {m : Memory}, m.wfFrom lo' = true → m.wfFrom lo = true
  | [], _ => rfl
  | (k, b) :: m, hm => by
    simp only [Memory.wfFrom, Bool.and_eq_true, decide_eq_true_eq] at hm ⊢
    exact ⟨⟨⟨by omega, hm.1.1.2⟩, hm.1.2⟩, hm.2⟩

theorem Memory.read_below : ∀ {m : Memory} {lo a : Nat}, m.wfFrom lo = true → a < lo → m.read a = 0#8
  | [], _, _, _, _ => rfl
  | (k, b) :: m, lo, a, hm, ha => by
    simp only [Memory.wfFrom, Bool.and_eq_true, decide_eq_true_eq] at hm
    simp only [Memory.read]
    rw [if_neg (by omega)]
    exact Memory.read_below hm.2 (by omega)

theorem Memory.read_write_other : ∀ (m : Memory) {a x : Nat} (b : Byte), x ≠ a → (m.write a b).read x = m.read x
  | [], a, x, b, h => by
    simp only [Memory.write]
    split
    · rfl
    · simp [Memory.read, Ne.symm h]
  | (k, c) :: m, a, x, b, h => by
    have ih := Memory.read_write_other m b h
    simp only [Memory.write]
    split
    · split
      · rfl
      · rw [Memory.read, if_neg (Ne.symm h)]
    · split
      · rename_i hk
        subst hk
        split <;> simp [Memory.read, Ne.symm h]
      · simp only [Memory.read]
        split
        · rfl
        · exact ih

theorem Memory.read_write_from : ∀ {m : Memory} {lo : Nat} (a : Nat) (b : Byte), m.wfFrom lo = true → (m.write a b).read a = b
  | [], _, a, b, _ => by
    simp only [Memory.write]
    split
    · rename_i h; rw [h]; rfl
    · simp [Memory.read]
  | (k, c) :: m, lo, a, b, hm => by
    have hm' := hm
    simp only [Memory.wfFrom, Bool.and_eq_true, decide_eq_true_eq] at hm
    simp only [Memory.write]
    split
    · rename_i hak
      split
      · rename_i hb
        rw [hb, Memory.read, if_neg (by omega)]
        exact Memory.read_below hm.2 (by omega)
      · rw [Memory.read, if_pos rfl]
    · split
      · rename_i hak
        split
        · rename_i hb
          rw [hb]
          exact Memory.read_below hm.2 (by omega)
        · rw [Memory.read, if_pos rfl]
      · rename_i hne
        rw [Memory.read, if_neg (Ne.symm hne)]
        exact Memory.read_write_from a b hm.2

theorem Memory.read_write_same {m : Memory} (a : Nat) (b : Byte) (hm : m.wf = true) : (m.write a b).read a = b :=
  Memory.read_write_from a b hm

theorem Memory.write_wfFrom : ∀ {m : Memory} {lo a : Nat} (b : Byte), m.wfFrom lo = true → lo ≤ a → a < 2 ^ 32 →
    (m.write a b).wfFrom lo = true
  | [], lo, a, b, _, hlo, ha => by
    simp only [Memory.write]
    split
    · rfl
    · rename_i hb; simp [Memory.wfFrom, hb, hlo]; omega
  | (k, c) :: m, lo, a, b, hm, hlo, ha => by
    have hm' := hm
    simp only [Memory.wfFrom, Bool.and_eq_true, decide_eq_true_eq] at hm
    simp only [Memory.write]
    split
    · split
      · exact hm'
      · rename_i hb
        simp only [Memory.wfFrom, Bool.and_eq_true, decide_eq_true_eq]
        exact ⟨⟨⟨hlo, ha⟩, by simpa using hb⟩, ⟨⟨by omega, hm.1.1.2⟩, hm.1.2⟩, hm.2⟩
    · split
      · rename_i hak
        subst hak
        split
        · exact Memory.wfFrom_mono (by omega) hm.2
        · rename_i hb
          simp only [Memory.wfFrom, Bool.and_eq_true, decide_eq_true_eq]
          exact ⟨⟨⟨hlo, ha⟩, by simpa using hb⟩, hm.2⟩
      · simp only [Memory.wfFrom, Bool.and_eq_true, decide_eq_true_eq]
        exact ⟨hm.1, Memory.write_wfFrom b hm.2 (by omega) ha⟩

theorem Memory.write_wf {m : Memory} {a : Nat} (b : Byte) (hm : m.wf = true) (ha : a < 2 ^ 32) :
    (m.write a b).wf = true := Memory.write_wfFrom b hm (Nat.zero_le a) ha

/-! ## The addresses of a block -/

theorem byteAddr_toNat (a : Addr) (j : Nat) : (byteAddr a j).toNat = (a.toNat + j % 2 ^ 32) % 2 ^ 32 := by
  simp [byteAddr, BitVec.toNat_add]

theorem byteAddr_inj {a : Addr} {i j : Nat} (hi : i < 2 ^ 32) (hj : j < 2 ^ 32) (h : byteAddr a i = byteAddr a j) : i = j := by
  have := congrArg BitVec.toNat h
  rw [byteAddr_toNat, byteAddr_toNat] at this
  omega

/-! ## A block write -/

/-- One byte of `writeSelected`, for any part of its loop. -/
theorem writeSelected_fold_read (a : Addr) (v : Block) (sel : Nat → Bool) (x : Addr) :
    ∀ (l : List (Fin 16)) (m : Memory), l.Nodup → m.wf = true →
      (l.foldl (fun m' j => if sel j.val then m'.write (byteAddr a j.val).toNat v[j.val] else m') m).wf = true ∧
      (∀ j : Fin 16, j ∈ l → x = byteAddr a j.val →
        (l.foldl (fun m' j => if sel j.val then m'.write (byteAddr a j.val).toNat v[j.val] else m') m).read x.toNat =
          if sel j.val then v[j.val] else m.read x.toNat) ∧
      ((∀ j : Fin 16, j ∈ l → x ≠ byteAddr a j.val) →
        (l.foldl (fun m' j => if sel j.val then m'.write (byteAddr a j.val).toNat v[j.val] else m') m).read x.toNat =
          m.read x.toNat)
  | [], m, _, hm => by simp [hm]
  | i :: l, m, hl, hm => by
    rw [List.nodup_cons] at hl
    set m₁ : Memory := if sel i.val then m.write (byteAddr a i.val).toNat v[i.val] else m with hm₁
    have hw : m₁.wf = true := by
      rw [hm₁]; split
      · exact Memory.write_wf _ hm (BitVec.isLt _)
      · exact hm
    have hother : x ≠ byteAddr a i.val → m₁.read x.toNat = m.read x.toNat := by
      intro hx
      rw [hm₁]; split
      · exact Memory.read_write_other _ _ (fun h => hx (BitVec.eq_of_toNat_eq h))
      · rfl
    obtain ⟨h1, h2, h3⟩ := writeSelected_fold_read a v sel x l m₁ hl.2 hw
    refine ⟨h1, ?_, ?_⟩
    · intro j hj hx
      rcases List.mem_cons.mp hj with rfl | hj
      · have hne : ∀ k : Fin 16, k ∈ l → x ≠ byteAddr a k.val := by
          intro k hk hxk
          have := byteAddr_inj (by omega) (by omega) (hx.symm.trans hxk)
          exact hl.1 (by rw [Fin.ext this]; exact hk)
        show (l.foldl _ m₁).read x.toNat = _
        rw [h3 hne, hm₁]
        split
        · rw [hx]; exact Memory.read_write_same _ _ hm
        · rfl
      · have hne : x ≠ byteAddr a i.val := by
          intro hxi
          have := byteAddr_inj (by omega) (by omega) (hx.symm.trans hxi)
          exact hl.1 (by rw [← Fin.ext this]; exact hj)
        show (l.foldl _ m₁).read x.toNat = _
        rw [h2 j hj hx, hother hne]
    · intro hx
      show (l.foldl _ m₁).read x.toNat = _
      rw [h3 (fun j hj => hx j (List.mem_cons_of_mem _ hj)), hother (hx i List.mem_cons_self)]

theorem writeSelected_wf {m : Memory} (a : Addr) (v : Block) (sel : Nat → Bool) (hm : m.wf = true) :
    (writeSelected m a v sel).wf = true :=
  (writeSelected_fold_read a v sel a (List.finRange 16) m (List.nodup_finRange 16) hm).1

/-- R71: the bytes of a block write: the selected ones are new, the others old. -/
theorem writeSelected_read_in {m : Memory} (a : Addr) (v : Block) (sel : Nat → Bool) (hm : m.wf = true) (j : Fin 16) :
    (writeSelected m a v sel).read (byteAddr a j.val).toNat =
      if sel j.val then v[j.val] else m.read (byteAddr a j.val).toNat :=
  (writeSelected_fold_read a v sel (byteAddr a j.val) (List.finRange 16) m (List.nodup_finRange 16) hm).2.1 j
    (List.mem_finRange j) rfl

/-- R71: a block write changes no byte outside its 16 addresses. -/
theorem writeSelected_read_out (m : Memory) (a : Addr) (v : Block) (sel : Nat → Bool) (x : Addr)
    (hx : ∀ j : Fin 16, x ≠ byteAddr a j.val) : (writeSelected m a v sel).read x.toNat = m.read x.toNat := by
  unfold writeSelected
  suffices H : ∀ (l : List (Fin 16)) (m : Memory),
      (l.foldl (fun m' j => if sel j.val then m'.write (byteAddr a j.val).toNat v[j.val] else m') m).read x.toNat =
        m.read x.toNat from H _ m
  intro l
  induction l with
  | nil => intro m; rfl
  | cons i l ih =>
    intro m
    rw [List.foldl_cons, ih]
    split
    · exact Memory.read_write_other _ _ (fun h => hx i (BitVec.eq_of_toNat_eq h))
    · rfl

/-- R67: byte j of the block at an address. -/
@[simp] theorem blockAt_getElem (m : Memory) (a : Addr) (j : Nat) (hj : j < 16) :
    (blockAt m a)[j] = m.read (byteAddr a j).toNat := by
  simp [blockAt]

/-- R67: blocks whose 16 bytes agree are equal. -/
theorem blockAt_congr {m m' : Memory} {a : Addr}
    (h : ∀ j, j < 16 → m'.read (byteAddr a j).toNat = m.read (byteAddr a j).toNat) : blockAt m' a = blockAt m a := by
  apply Vector.ext
  intro j hj
  rw [blockAt_getElem _ _ _ hj, blockAt_getElem _ _ _ hj]
  exact h j hj

/-- R71: a block written whole is read back. -/
theorem blockAt_writeSelected {m : Memory} (a : Addr) (v : Block) (hm : m.wf = true) :
    blockAt (writeSelected m a v fun _ => true) a = v := by
  apply Vector.ext
  intro j hj
  rw [blockAt_getElem]
  exact writeSelected_read_in a v (fun _ => true) hm ⟨j, hj⟩

/-! ## Byte sequences of the host -/

theorem writeBytes_wf : ∀ {m : Memory} (a : Addr) (bs : List Byte), m.wf = true → (writeBytes m a bs).wf = true
  | _, _, [], hm => hm
  | _, a, b :: bs, hm => writeBytes_wf (a + 1#32) bs (Memory.write_wf b hm (BitVec.isLt a))

/-- R66: `MW` changes no byte outside its addresses. -/
theorem writeBytes_read_other : ∀ {m : Memory} (a : Addr) (bs : List Byte) (x : Addr), bs.length ≤ (x - a).toNat →
    (writeBytes m a bs).read x.toNat = m.read x.toNat
  | _, _, [], _, _ => rfl
  | m, a, b :: bs, x, h => by
    have hx : x ≠ a := by rintro rfl; simp at h
    simp only [List.length_cons] at h
    have h1 : (x - (a + 1#32)).toNat = (x - a).toNat - 1 := by bv_omega
    rw [writeBytes, writeBytes_read_other (a + 1#32) bs x (by omega)]
    exact Memory.read_write_other _ _ (fun h => hx (BitVec.eq_of_toNat_eq h))

/-- R64: bytes written at consecutive addresses are read back there. -/
theorem readBytes_writeBytes : ∀ {m : Memory} (a : Addr) (bs : List Byte), m.wf = true → bs.length ≤ 2 ^ 32 →
    readBytes (writeBytes m a bs) a bs.length = bs
  | _, _, [], _, _ => rfl
  | m, a, b :: bs, hm, h => by
    simp only [List.length_cons] at h
    have hback : (a - (a + 1#32)).toNat = 2 ^ 32 - 1 := by bv_omega
    rw [List.length_cons, readBytes, writeBytes, writeBytes_read_other _ _ _ (by omega), Memory.read_write_same _ _ hm,
      readBytes_writeBytes (a + 1#32) bs (Memory.write_wf b hm a.isLt) (by omega)]

theorem readBytes_length (m : Memory) : ∀ (a : Addr) (n : Nat), (readBytes m a n).length = n
  | _, 0 => rfl
  | a, n + 1 => by rw [readBytes, List.length_cons, readBytes_length]

/-- R66: byte j of the bytes read from an address on. -/
theorem readBytes_getElem? (m : Memory) : ∀ (n : Nat) (a : Addr) (j : Nat), j < n →
    (readBytes m a n)[j]? = some (m.read (byteAddr a j).toNat)
  | 0, _, _, h => absurd h (Nat.not_lt_zero _)
  | n + 1, a, 0, _ => by simp [readBytes, byteAddr]
  | n + 1, a, j + 1, h => by
    have hnext : byteAddr (a + 1#32) j = byteAddr a (j + 1) := by
      simp only [byteAddr]
      rw [BitVec.add_assoc]
      congr 1
      apply BitVec.eq_of_toNat_eq
      simp [Nat.add_comm]
    simp only [readBytes, List.getElem?_cons_succ]
    rw [readBytes_getElem? m n _ j (by omega), hnext]

/-- R206: a host access races exactly when one of its bytes lies in a claimed range. -/
theorem races_iff (s : State) (a : Addr) (n : Nat) :
    s.races a n = true ↔ ∃ j, j < n ∧ ∃ c, c ∈ s.owned ∧ c.covers (byteAddr a j) = true := by
  simp [State.races]

/-- R46: the reset memory is in canonical form. -/
theorem State.reset_mem_wf : State.reset.mem.wf = true := rfl

end Sys2Proof.Machine
end

