-- ==== Sys2Proof/Laws/Exec.lean ====
section
/-! SUPPORT. Laws/Exec.lean: what an ENGINE step can do: every command's step is one of the phases of rule R161, and each phase
one of the outcomes of rules R162, R166 and R167. -/

namespace Sys2Proof.Machine

/-- The START step of a command (R162). -/
def startOf : Instr → State → State
  | .nop => startNop
  | .expandKey => startExpandKey
  | .encryptBlock => startEncryptBlock
  | .ecbEncrypt => startEcbEncrypt
  | .encrypt => startEncrypt
  | .clear => startClear

/-- Every command answers a next state: its START step, or the shared step of the phase it is in. -/
theorem exec_eq_runPhase (i : Instr) (s : State) : exec i s = .next (s.runPhase (startOf i)) := by cases i <;> rfl

theorem execIllegal_eq_runPhase (s : State) : execIllegal s = .next (s.runPhase startIllegal) := rfl

theorem runPhase_idle {s : State} {f : State → State} (h : s.eng.phase = .idle) : s.runPhase f = s := by
  simp [State.runPhase, h]

theorem runPhase_start {s : State} {f : State → State} (h : s.eng.phase = .start) : s.runPhase f = f s := by
  simp [State.runPhase, h]

theorem runPhase_expand {s : State} {f : State → State} (h : s.eng.phase = .expand) : s.runPhase f = s.expandStep := by
  simp [State.runPhase, h]

theorem runPhase_block {s : State} {f : State → State} (h : s.eng.phase = .block) : s.runPhase f = s.blockStep := by
  simp [State.runPhase, h]

theorem exec_start {i : Instr} {s : State} (h : s.eng.phase = .start) : exec i s = .next (startOf i s) := by
  rw [exec_eq_runPhase, runPhase_start h]

theorem exec_expand {i : Instr} {s : State} (h : s.eng.phase = .expand) : exec i s = .next s.expandStep := by
  rw [exec_eq_runPhase, runPhase_expand h]

theorem exec_block {i : Instr} {s : State} (h : s.eng.phase = .block) : exec i s = .next s.blockStep := by
  rw [exec_eq_runPhase, runPhase_block h]

/-! ## The checks and the operands -/

theorem keylenOk_iff (e : Engine) : keylenOk e = true ↔ e.keylen = 16#8 ∨ e.keylen = 32#8 := by simp [keylenOk]

theorem lenOk_iff (e : Engine) : lenOk e = true ↔ e.len ≠ 0#32 ∧ e.len.toNat % 16 = 0 := by simp [lenOk]

/-- R173: a valid length is 16 bytes a block, at least one block, at most 0x0FFFFFFF (R30, R41). -/
theorem lenOk_blocks {e : Engine} (h : lenOk e = true) :
    e.len.toNat = 16 * blockCount e ∧ 0 < blockCount e ∧ blockCount e ≤ 0x0FFFFFFF := by
  obtain ⟨h0, h1⟩ := (lenOk_iff e).1 h
  have h2 : e.len.toNat ≠ 0 := fun h => h0 (BitVec.eq_of_toNat_eq (by simpa using h))
  have := e.len.isLt
  unfold blockCount
  omega

/-- R166: what the EXPAND step computes. -/
theorem expansion_16 {e : Engine} (p : Platform) (h : e.keylen = 16#8) :
    e.expansion p = (keyExpansion128 (keyBytes e), 10#8) := by
  simp [Engine.expansion, keyScheduleExpander, h]

theorem expansion_32 {e : Engine} (p : Platform) (h : e.keylen ≠ 16#8) :
    e.expansion p = (keyExpansion256 p.ks256Mode (keyBytes e), 14#8) := by
  simp [Engine.expansion, keyScheduleExpander, h]

/-- R166: the EXPAND step changes only the engine. -/
theorem expandStep_cases (s : State) :
    (s.eng.op = .cmd .expandKey ∧
      s.expandStep =
        s.setEng ((s.eng.loadSchedule (s.eng.expansion s.cfg).1 (s.eng.expansion s.cfg).2).finish .ok)) ∨
    (s.eng.op ≠ .cmd .expandKey ∧
      s.expandStep = s.setEng (s.eng.loadSchedule (s.eng.expansion s.cfg).1 (s.eng.expansion s.cfg).2).enterBlocks) := by
  by_cases h : s.eng.op = .cmd .expandKey
  · exact .inl ⟨h, by simp [State.expandStep, h]⟩
  · exact .inr ⟨h, by simp [State.expandStep, h]⟩

/-! ## The addresses of a buffer -/

/-- R66: byte j of block i of a buffer. -/
theorem blockAddr_byte (b : Addr) (i j : Nat) : byteAddr (blockAddr b i) j = b + BitVec.ofNat 32 (16 * i + j) := by
  simp only [byteAddr, blockAddr]
  rw [BitVec.add_assoc]
  congr 1
  apply BitVec.eq_of_toNat_eq
  simp [BitVec.toNat_add]

/-- R62, R66: every byte of every block of a valid length lies in the range. -/
theorem inRange_block {e : Engine} (base : Addr) {i j : Nat} (hl : lenOk e = true) (hi : i < blockCount e) (hj : j < 16) :
    inRange base e.len (byteAddr (blockAddr base i) j) = true := by
  obtain ⟨h1, -, -⟩ := lenOk_blocks hl
  have hlt := e.len.isLt
  have h : base + BitVec.ofNat 32 (16 * i + j) - base = BitVec.ofNat 32 (16 * i + j) := by
    rw [BitVec.add_comm]
    exact BitVec.add_sub_cancel _ _
  rw [blockAddr_byte]
  simp only [inRange, decide_eq_true_eq, h, BitVec.toNat_ofNat]
  omega

/-- R66: two blocks of one buffer of a valid length share no byte. -/
theorem blocks_disjoint {e : Engine} (base : Addr) {i i' j j' : Nat} (hl : lenOk e = true) (hi : i < blockCount e)
    (hi' : i' < blockCount e) (hj : j < 16) (hj' : j' < 16)
    (h : byteAddr (blockAddr base i) j = byteAddr (blockAddr base i') j') : i = i' := by
  obtain ⟨h1, -, -⟩ := lenOk_blocks hl
  have hlt := e.len.isLt
  rw [blockAddr_byte, blockAddr_byte] at h
  have := congrArg BitVec.toNat h
  simp only [BitVec.toNat_add, BitVec.toNat_ofNat] at this
  omega

/-- A block step's state is the state it starts from but for the engine and the memory. -/
theorem setMem_setEng_frame (s : State) (m : Memory) (e : Engine) :
    (s.setMem m).setEng e = { s with eng := ((s.setMem m).setEng e).eng, mem := ((s.setMem m).setEng e).mem } := rfl

/-! ## The BLOCK step -/

/-- R70: `MemRead` answers the 16 bytes or BUS_FAIL. -/
theorem memReadBlock_ok {p : Platform} {m : Memory} {a : Addr} (h : blockOk p a .read = true) :
    memReadBlock p m a = some (blockAt m a) := by simp [memReadBlock, h]

theorem memReadBlock_fail {p : Platform} {m : Memory} {a : Addr} (h : blockOk p a .read = false) :
    memReadBlock p m a = none := by simp [memReadBlock, h]

/-- R167: the state after a BLOCK step, all of its outcomes: the read fails; the write fails; the block is written. -/
theorem blockStep_cases (s : State) :
    (blockOk s.cfg (blockAddr s.eng.src s.eng.blk) .read = false ∧ s.blockStep = s.finish .busError) ∨
    (blockOk s.cfg (blockAddr s.eng.src s.eng.blk) .read = true ∧
      blockOk s.cfg (blockAddr s.eng.dst s.eng.blk) .write = false ∧
      s.blockStep =
        ((s.setMem
          (writeSelected s.mem (blockAddr s.eng.dst s.eng.blk)
            (s.eng.transform (blockAt s.mem (blockAddr s.eng.src s.eng.blk)))
            (failedWriteSel s.cfg (blockAddr s.eng.dst s.eng.blk) s.draws))).draw 16).setEng
          ((s.eng.setWork (s.eng.transform (blockAt s.mem (blockAddr s.eng.src s.eng.blk)))).finish .busError)) ∨
    (blockOk s.cfg (blockAddr s.eng.src s.eng.blk) .read = true ∧
      blockOk s.cfg (blockAddr s.eng.dst s.eng.blk) .write = true ∧
      s.blockStep =
        (s.setMem
          (writeSelected s.mem (blockAddr s.eng.dst s.eng.blk)
            (s.eng.transform (blockAt s.mem (blockAddr s.eng.src s.eng.blk))) fun _ => true)).setEng
          (s.eng.blockDone (s.eng.transform (blockAt s.mem (blockAddr s.eng.src s.eng.blk))))) := by
  cases hr : blockOk s.cfg (blockAddr s.eng.src s.eng.blk) .read with
  | false => exact .inl ⟨rfl, by simp [State.blockStep, memReadBlock_fail hr]⟩
  | true =>
    cases hw : blockOk s.cfg (blockAddr s.eng.dst s.eng.blk) .write with
    | false => exact .inr (.inl ⟨rfl, rfl, by simp [State.blockStep, memReadBlock_ok hr, State.blockWrite, State.memWriteBlock, hw]⟩)
    | true => exact .inr (.inr ⟨rfl, rfl, by simp [State.blockStep, memReadBlock_ok hr, State.blockWrite, State.memWriteBlock, hw]⟩)

/-- R167: the end of a block, by cases. -/
theorem blockDone_cases (e : Engine) (ct : Block) :
    (e.blk + 1 = blockCount e ∧ e.blockDone ct = ((e.setWork ct).countBlock e.blk).finish .ok) ∨
    (e.blk + 1 ≠ blockCount e ∧ e.blockDone ct = (e.setWork ct).countBlock e.blk) := by
  by_cases h : e.blk + 1 = blockCount e
  · exact .inl ⟨h, by simp [Engine.blockDone, h]⟩
  · exact .inr ⟨h, by simp [Engine.blockDone, h]⟩

/-- MEM_OK at the bytes of a block that answers. -/
theorem blockOk_byte {p : Platform} {a : Addr} {k : AccessKind} (h : blockOk p a k = true) (j : Fin 16) :
    memOk p (byteAddr a j.val) k = true := by
  simp only [blockOk, List.all_eq_true, List.mem_range] at h
  exact h j.val j.isLt

/-- An ENGINE step keeps the canonical form of the memory. -/
theorem runPhase_mem_wf {s : State} {f : State → State} (hm : s.mem.wf = true) (hf : (f s).mem = s.mem) :
    (s.runPhase f).mem.wf = true := by
  unfold State.runPhase
  split
  · exact hm
  · rw [hf]; exact hm
  · rcases expandStep_cases s with ⟨_, h⟩ | ⟨_, h⟩ <;> rw [h] <;> exact hm
  · rcases blockStep_cases s with ⟨_, h⟩ | ⟨_, _, h⟩ | ⟨_, _, h⟩ <;> rw [h]
    · exact hm
    · rw [State.setEng_mem, State.draw_mem, State.setMem_mem]
      exact writeSelected_wf _ _ _ hm
    · rw [State.setEng_mem, State.setMem_mem]
      exact writeSelected_wf _ _ _ hm

/-- R177: a START step changes only the engine. -/
theorem startOf_frame (i : Instr) (s : State) : startOf i s = s.setEng (startOf i s).eng := by
  cases i <;> simp only [startOf, startNop, startExpandKey, startEncryptBlock, startEcbEncrypt, startEncrypt, startClear]
  all_goals first | rfl | (split <;> first | rfl | (split <;> rfl))

@[simp] theorem startOf_mem (i : Instr) (s : State) : (startOf i s).mem = s.mem := by rw [startOf_frame]; rfl

end Sys2Proof.Machine
end

