-- ==== Sys2Proof/Laws/PerInstr.lean ====
section
/-! SUPPORT. Laws/PerInstr.lean: statements for all instructions, one lemma per constructor. -/

namespace Sys2Proof.Laws.Roundtrip

/-- R80, R81, R82: a command's word is well formed, decodes to the command, and is the word the opcode table gives in its 32
bits. -/
def Statement (i : Instr) : Prop :=
  i.wf = true → CommandWord.wf (encode i) = true ∧ decode (encode i) = .command i ∧
    decodeTableWord 32 (encode i).toNat = some i

theorem nop : Statement .nop := fun _ => by decide
theorem expandKey : Statement .expandKey := fun _ => by decide
theorem encryptBlock : Statement .encryptBlock := fun _ => by decide
theorem ecbEncrypt : Statement .ecbEncrypt := fun _ => by decide
theorem encrypt : Statement .encrypt := fun _ => by decide
theorem clear : Statement .clear := fun _ => by decide

end Sys2Proof.Laws.Roundtrip
end

