-- ==== Sys2Proof/Laws/Step.lean ====
section
/-! SUPPORT. Laws/Step.lean: what a step of the machine can do: whose step it is (rule R20), and what a HOST statement does
(rules R23, R87). -/

namespace Sys2Proof.Machine

theorem step_engine {s : State} {ts : List Agent} (h : s.turns = .engine :: ts) : step s = engineStep (s.setTurns ts) := by
  simp [step, turnStep, h, agentStep]

theorem step_host {s : State} {ts : List Agent} (h : s.turns = .host :: ts) : step s = hostStep (s.setTurns ts) := by
  simp [step, turnStep, h, agentStep]

theorem step_reset {s : State} {ts : List Agent} (h : s.turns = .reset :: ts) :
    step s = .next (resetEvent (s.setTurns ts)) := by
  simp [step, turnStep, h, agentStep]

/-- R20: every step is a step of one agent, from the state itself, or from it with the turn consumed or a free value drawn. -/
theorem step_cases (s : State) :
    ∃ s₀ : State, s₀.eng = s.eng ∧ s₀.mem = s.mem ∧ s₀.host = s.host ∧ s₀.cfg = s.cfg ∧ s₀.owned = s.owned ∧
      (step s = .next s₀ ∨ step s = hostStep s₀ ∨ step s = engineStep s₀ ∨ step s = .next (resetEvent s₀)) := by
  unfold step turnStep
  cases ht : s.turns with
  | nil =>
    simp only [openStep]
    cases hostEnabled s <;> cases engineEnabled s
    · exact ⟨s, rfl, rfl, rfl, rfl, rfl, .inl rfl⟩
    · exact ⟨s, rfl, rfl, rfl, rfl, rfl, .inr (.inr (.inl rfl))⟩
    · exact ⟨s, rfl, rfl, rfl, rfl, rfl, .inr (.inl rfl)⟩
    · by_cases hf : Config.hostFirst s.draws = true
      · exact ⟨s.draw 1, rfl, rfl, rfl, rfl, rfl, .inr (.inl (by simp [hf]))⟩
      · exact ⟨s.draw 1, rfl, rfl, rfl, rfl, rfl, .inr (.inr (.inl (by simp [hf])))⟩
  | cons a ts =>
    refine ⟨s.setTurns ts, rfl, rfl, rfl, rfl, rfl, ?_⟩
    cases a
    · exact .inr (.inl rfl)
    · exact .inr (.inr (.inl rfl))
    · exact .inr (.inr (.inr rfl))

/-! ## The host -/

section
variable (h : HostAgent) (n x : Nat) (v : HostVal) (busy : Bool)

@[simp] theorem HostAgent.jump_prog : (h.jump n).prog = h.prog := rfl
@[simp] theorem HostAgent.jump_pc : (h.jump n).pc = n := rfl
@[simp] theorem HostAgent.jump_env : (h.jump n).env = h.env := rfl
@[simp] theorem HostAgent.jump_run : (h.jump n).run = h.run := rfl
@[simp] theorem HostAgent.advance_prog : h.advance.prog = h.prog := rfl
@[simp] theorem HostAgent.advance_pc : h.advance.pc = h.pc + 1 := rfl
@[simp] theorem HostAgent.advance_env : h.advance.env = h.env := rfl
@[simp] theorem HostAgent.advance_run : h.advance.run = h.run := rfl
@[simp] theorem HostAgent.bind_prog : (h.bind x v).prog = h.prog := rfl
@[simp] theorem HostAgent.bind_pc : (h.bind x v).pc = h.pc := rfl
@[simp] theorem HostAgent.bind_env : (h.bind x v).env = (x, v) :: h.env := rfl
@[simp] theorem HostAgent.bind_run : (h.bind x v).run = h.run := rfl
@[simp] theorem HostAgent.finish_prog : (h.finish busy).prog = h.prog := rfl
@[simp] theorem HostAgent.finish_pc : (h.finish busy).pc = h.pc := rfl
@[simp] theorem HostAgent.finish_env : (h.finish busy).env = h.env := rfl
@[simp] theorem HostAgent.finish_run : (h.finish busy).run = if busy then .endedBusy else .ended := rfl

end

/-- R89: only a program that has not taken `END` has a statement. -/
theorem current_some {h : HostAgent} {st : HostStmt} (hc : h.current = some st) : h.run = .running := by
  unfold HostAgent.current at hc
  split at hc
  · assumption
  · cases hc
  · cases hc

theorem current_ended {h : HostAgent} (hr : h.run ≠ .running) : h.current = none := by
  cases hc : h.current with
  | none => rfl
  | some st => exact absurd (current_some hc) hr

/-- R89: a host with no statement does nothing. -/
theorem hostStep_none {s : State} (h : s.host.current = none) : hostStep s = .next s := by simp [hostStep, h]

/-! ## The ENGINE -/

/-- R161: an ENGINE step answers a next state and leaves the host, the platform, the turns and the claims as they are. -/
theorem engineStep_next (s : State) :
    ∃ t, engineStep s = .next t ∧ t.host = s.host ∧ t.cfg = s.cfg ∧ t.turns = s.turns ∧ t.owned = s.owned := by
  have hphase : ∀ f : State → State, f s = s.setEng (f s).eng →
      (s.runPhase f).host = s.host ∧ (s.runPhase f).cfg = s.cfg ∧ (s.runPhase f).turns = s.turns ∧
        (s.runPhase f).owned = s.owned := by
    intro f hf
    cases hp : s.eng.phase with
    | idle => rw [runPhase_idle hp]; exact ⟨rfl, rfl, rfl, rfl⟩
    | start => rw [runPhase_start hp, hf]; exact ⟨rfl, rfl, rfl, rfl⟩
    | expand =>
      rw [runPhase_expand hp]
      rcases expandStep_cases s with ⟨_, h⟩ | ⟨_, h⟩ <;> rw [h] <;> exact ⟨rfl, rfl, rfl, rfl⟩
    | block =>
      rw [runPhase_block hp]
      rcases blockStep_cases s with ⟨_, h⟩ | ⟨_, _, h⟩ | ⟨_, _, h⟩ <;> rw [h]
      · exact ⟨rfl, rfl, rfl, rfl⟩
      · simp only [State.setEng_host, State.draw_host, State.setMem_host, State.setEng_cfg, State.draw_cfg, State.setMem_cfg,
          State.setEng_turns, State.draw_turns, State.setMem_turns, State.setEng_owned, State.draw_owned, State.setMem_owned,
          and_self]
      · simp only [State.setEng_host, State.setMem_host, State.setEng_cfg, State.setMem_cfg, State.setEng_turns,
          State.setMem_turns, State.setEng_owned, State.setMem_owned, and_self]
  unfold engineStep
  cases s.eng.op with
  | cmd i => exact ⟨_, exec_eq_runPhase i s, hphase _ (startOf_frame i s)⟩
  | illegal => exact ⟨_, execIllegal_eq_runPhase s, hphase _ rfl⟩

theorem engineStep_cmd {s : State} {i : Instr} (h : s.eng.op = .cmd i) : engineStep s = exec i s := by
  simp [engineStep, h]

theorem engineStep_illegal {s : State} (h : s.eng.op = .illegal) : engineStep s = execIllegal s := by
  simp [engineStep, h]

theorem hostStep_current {s : State} {st : HostStmt} (h : s.host.current = some st) : hostStep s = hostStmtStep st s := by
  simp [hostStep, h]

/-- R23: an offset of the window is found again at its host address. -/
theorem windowOffset_inside (p : Platform) {off : Nat} (h : off < 1024) : windowOffset p (p.base + off) = some off := by
  unfold windowOffset
  rw [if_pos ⟨Nat.le_add_right _ _, Nat.add_lt_add_left h _⟩, Nat.add_sub_cancel_left]

/-- R23: the host address of an offset lies in the window exactly for an offset of the window. -/
theorem windowOffset_eq_some {p : Platform} {off o : Nat} :
    windowOffset p (p.base + off) = some o ↔ o = off ∧ off < 1024 := by
  unfold windowOffset
  split
  · simp only [Option.some.injEq]; omega
  · simp only [false_iff, reduceCtorEq]; omega

/-- R24: CMD is at offset 4 and no other. -/
theorem regAt_eq_cmd {off : Nat} (h : off < 1024) (h4 : off % 4 = 0) : regAt off = .cmd ↔ off = 0x004 := by
  constructor
  · intro hr
    have hall : ∀ w : Fin 256, regAtIndex w.val = .cmd → w.val = 1 := by decide +kernel
    have h1 : off / 4 = 1 := hall ⟨off / 4, by omega⟩ hr
    omega
  · rintro rfl
    rfl

/-- R210: an input samples high exactly when IRQ is routed to it and high. -/
theorem hostIrq_iff (p : Platform) (e : Engine) (n : Nat) :
    hostIrq p e n = true ↔ p.irqRoute = some n ∧ e.ie = true ∧ e.done = true := by
  simp [hostIrq, irqLine]

/-- R23: a supported write reaches its register. -/
theorem busWrite_inside {s : State} {off : Nat} (v : Word) (h : off < 1024) (h4 : off % 4 = 0) :
    s.busWrite 32 (s.cfg.base + off) v = s.regWrite (regAt off) v := by
  simp [State.busWrite, windowOffset_inside _ h, accessOk, h4]

/-- R23: a supported read reaches its register. -/
theorem busRead_inside {s : State} {off : Nat} (h : off < 1024) (h4 : off % 4 = 0) :
    s.busRead 32 (s.cfg.base + off) = some (s.regRead (regAt off)) := by
  simp [State.busRead, windowOffset_inside _ h, accessOk, h4]

/-- R205: an access that is not supported. -/
theorem accessOk_false {bits off : Nat} (h : bits ≠ 32 ∨ off % 4 ≠ 0) : accessOk bits off = false := by
  rcases h with h | h <;> simp [accessOk, h]

/-- R69, R40: a register read changes only the model's own fields. -/
theorem regRead_frame (s : State) (r : Reg) :
    (s.regRead r).2.eng = s.eng ∧ (s.regRead r).2.mem = s.mem ∧ (s.regRead r).2.host = s.host ∧
      (s.regRead r).2.cfg = s.cfg ∧ (s.regRead r).2.turns = s.turns := by
  unfold State.regRead
  split
  · exact ⟨rfl, rfl, rfl, rfl, rfl⟩
  · split <;> exact ⟨rfl, rfl, rfl, rfl, rfl⟩

/-- R27, R160, R207: what a CMD write can do. -/
theorem writeCmd_cases (s : State) (v : Word) :
    (s.eng.busy = true ∧ s.writeCmd v = .next s) ∨
    (s.eng.busy = false ∧ isBufferCmd (opOfWord v) = true ∧ aliases s.cfg s.eng = true ∧
      s.writeCmd v = .fault .bufferAlias) ∨
    (s.eng.busy = false ∧ (isBufferCmd (opOfWord v) = true → aliases s.cfg s.eng = false) ∧
      s.writeCmd v = .next (s.accept v)) := by
  unfold State.writeCmd
  cases hb : s.eng.busy
  · cases hc : isBufferCmd (opOfWord v) <;> cases ha : aliases s.cfg s.eng <;> simp
  · simp

/-- R23: the step of a host whose statement is a supported register write. -/
theorem step_host_write {s : State} {ts : List Agent} {off : Nat} {v : Word} (h : s.turns = .host :: ts)
    (hc : s.host.current = some (.write 32 off v)) (ho : off < 1024) (h4 : off % 4 = 0) :
    step s = advanceAfter ((s.setTurns ts).regWrite (regAt off) v) := by
  rw [step_host h, hostStep_current (s := s.setTurns ts) (by exact hc)]
  show advanceAfter _ = _
  rw [busWrite_inside v ho h4]

/-- R23: the step of a host whose statement is a supported register read. -/
theorem step_host_read {s : State} {ts : List Agent} {off x : Nat} (h : s.turns = .host :: ts)
    (hc : s.host.current = some (.read 32 off x)) (ho : off < 1024) (h4 : off % 4 = 0) :
    step s = .next
      (((s.setTurns ts).regRead (regAt off)).2.hostBind x (.word ((s.setTurns ts).regRead (regAt off)).1)) := by
  rw [step_host h, hostStep_current (s := s.setTurns ts) (by exact hc)]
  show hostRead _ _ _ _ = _
  rw [hostRead, busRead_inside ho h4]

/-- R89: every statement but `END` keeps the program as far as it is. -/
theorem hostStmtStep_run {s t : State} {st : HostStmt} (hs : st ≠ .stop) (h : hostStmtStep st s = .next t) : t.host.run = s.host.run := by
  cases st with
  | stop => exact absurd rfl hs
  | label l => cases h; rfl
  | irq n x => cases h; rfl
  | memRead a n x => simp only [hostStmtStep, hostMemRead] at h; split at h <;> cases h; rfl
  | memWrite a bs => simp only [hostStmtStep, hostMemWrite] at h; split at h <;> cases h; rfl
  | ifGoto c l =>
    simp only [hostStmtStep, hostIf] at h
    split at h
    · cases h
    · cases h; rfl
    · split at h <;> cases h; rfl
  | read b off x =>
    simp only [hostStmtStep, hostRead] at h
    split at h
    · cases h
    · rename_i v s' hb
      cases h
      show s'.host.run = _
      unfold State.busRead at hb
      split at hb
      · cases hb; rfl
      · split at hb
        · rename_i o _ _
          have := (regRead_frame s (regAt o)).2.2.1
          simp only [Option.some.injEq] at hb
          rw [hb] at this; rw [this]
        · cases hb
  | write b off v =>
    simp only [hostStmtStep, hostWrite] at h
    cases hb : s.busWrite b (s.cfg.base + off) v with
    | fault f => rw [hb] at h; cases h
    | refused f => rw [hb] at h; cases h
    | next u =>
      rw [hb] at h; cases h
      show u.host.run = _
      unfold State.busWrite at hb
      split at hb
      · cases hb; rfl
      · split at hb
        · unfold State.regWrite at hb
          split at hb
          · rcases writeCmd_cases s v with ⟨_, e⟩ | ⟨_, _, _, e⟩ | ⟨_, _, e⟩ <;> rw [e] at hb <;> cases hb <;> rfl
          · cases hb; rfl
        · cases hb

/-- Running k + 1 steps of any machine: one step, then k more. -/
theorem Core_run_succ (M : Host.Core) (k : Nat) (x : M.State) :
    M.run (k + 1) x =
      (match M.step x with
       | .next y => M.run k y
       | .fault f => .fault f
       | .refused r => .refused r) := by
  cases h : M.step x <;> simp only [Host.Core.run, h]

/-- Running k + 1 steps of this machine. -/
theorem run_succ (k : Nat) (s : State) :
    Host.Core.run Sys2Proof.core (k + 1) s =
      (match step s with
       | .next t => Host.Core.run Sys2Proof.core k t
       | .fault f => .fault f
       | .refused r => .refused r) := by
  have h := Core_run_succ Sys2Proof.core k s
  have hs : Host.Core.step Sys2Proof.core s = step s := rfl
  rw [hs] at h
  rw [h]
  cases step s <;> rfl

end Sys2Proof.Machine
end

