-- ==== Sys2Proof/Tests/Slice0.lean ====
section
/-! SUPPORT. Tests/Slice0.lean: small tests, and for every statement with hypotheses a witness that they can be met. Expected
values are those of the rules' own examples and of 95_test_vectors.md; each test names its source. -/

namespace Sys2Proof.Machine.Tests

/-! ## Helpers -/

/-- A block from 32 hexadecimal digits, byte 0 first (R9). -/
def hexBlock (n : Nat) : Block := Vector.ofFn fun i : Fin 16 => BitVec.ofNat 8 (n / 256 ^ (15 - i.val))

/-- 32 key bytes from 64 hexadecimal digits. -/
def hexKey (n : Nat) : KeyBytes := Vector.ofFn fun i : Fin 32 => BitVec.ofNat 8 (n / 256 ^ (31 - i.val))

/-- The key of V-SRC-1, in the first 16 of the 32 bytes. -/
def keyV : KeyBytes := hexKey (0x2b7e151628aed2a6abf7158809cf4f3c * 256 ^ 16)

/-- A platform whose buffer memory answers at 0x1000..0x2FFF, and which maps the window at 0x2800. -/
def plat : Platform where
  base := 0x40000000
  memMap := [{ lo := 0x1000, size := 0x2000, readable := true, writable := true }]
  ks256Mode := .fips197
  irqRoute := some 5
  windowAt := some 0x2800#32

/-- The same with a buffer memory that answers no write above 0x1FFF, and no window in it. -/
def platRo : Platform where
  base := 0x40000000
  memMap := [{ lo := 0x1000, size := 0x1000, readable := true, writable := true },
    { lo := 0x2000, size := 0x1000, readable := true, writable := false }]
  ks256Mode := .srcBlock16
  irqRoute := none
  windowAt := none

/-- The reset state on `plat` with one buffer's registers written: one block from 0x1000 to 0x2000, a 16-byte key length. -/
def ready : State := (State.resetOn plat).setEng (((Engine.reset.setLen 16#32).setSrc 0x1000#32).setDst 0x2000#32 |>.setKeylen 16#8)

/-- `ready` with a schedule held. -/
def keyed : State := ready.setEng (ready.eng.loadSchedule (Vector.replicate 240 0#8) 10#8)

/-- A state in which command word v has been accepted and the ENGINE takes the next n steps. -/
def accepted (s : State) (v : Word) (n : Nat) : State := (s.accept v).setTurns (List.replicate n .engine)

/-- A state in which the host's next statement is st and the HOST moves next. -/
def hosted (s : State) (st : HostStmt) : State := (s.setHost { prog := [st], pc := 0, env := [], run := .running }).setTurns [.host]

/-- A BLOCK step of ECB_ENCRYPT at block 0. -/
def inBlock : State := (accepted keyed 0x00000003#32 1).setEng ((accepted keyed 0x00000003#32 1).eng.enter .block)

/-- What a step's next state satisfies; false if there is none. -/
def after (o : Host.Outcome State Fault Refusal) (p : State → Bool) : Bool :=
  match o with
  | .next t => p t
  | .fault _ => false
  | .refused _ => false

/-- The outcome is the fault f. -/
def faults (o : Host.Outcome State Fault Refusal) (f : Fault) : Bool :=
  match o with
  | .next _ => false
  | .fault g => g == f
  | .refused _ => false

/-! ## Well-formedness: one ill-formed term for each check -/

/-- R83: RSVD is not 0. -/
theorem test_wf_reserved_bits : CommandWord.rsvdZero 0x00000010#32 = false ∧ CommandWord.wf 0x00000011#32 = false := by decide

/-- R83: OP is in 0x6..0xF. -/
theorem test_wf_undefined_op : CommandWord.opDefined 0x00000006#32 = false ∧ CommandWord.wf 0x0000000F#32 = false := by decide

/-- R82: the words of the map, at both ends. -/
theorem test_wf_legal_words : CommandWord.wf 0x00000000#32 = true ∧ CommandWord.wf 0x00000005#32 = true := by decide

/-- R23: width, alignment and window of a register access; R87: a branch to a missing label; R89: no END. -/
theorem test_wf_host :
    HostStmt.wf [] (.write 16 0x00C 0#32) = false ∧ HostStmt.wf [] (.read 32 0x00A 0) = false ∧
    HostStmt.wf [] (.read 32 0x400 0) = false ∧ HostStmt.wf [] (.ifGoto (.field 0 0 0 1) 7) = false ∧
    HostStmt.wf [.label 7, .label 7] (.label 7) = false ∧ hostProgWf [regR 0x008 0] = false ∧
    hostProgWf (pseudoCmd .nop ++ pseudoWait 0 0 ++ [.stop]) = true := by decide

/-! ## Decoding (R80 to R83; 95_test_vectors.md 2.7) -/

/-- The word of each command, its 28 RSVD bits and 4 OP bits written out. -/
theorem test_decode_bits :
    decode (0#28 ++ 0b0000#4) = .command .nop ∧ decode (0#28 ++ 0b0001#4) = .command .expandKey ∧
    decode (0#28 ++ 0b0010#4) = .command .encryptBlock ∧ decode (0#28 ++ 0b0011#4) = .command .ecbEncrypt ∧
    decode (0#28 ++ 0b0100#4) = .command .encrypt ∧ decode (0#28 ++ 0b0101#4) = .command .clear := by decide

/-- R176: "0x00000011 is not EXPAND_KEY"; the first undefined opcode; the highest bit of RSVD. -/
theorem test_decode_illegal :
    decode 0x00000011#32 = .reservedBits ∧ decode 0x00000006#32 = .undefinedOp ∧ decode 0x80000003#32 = .reservedBits := by
  decide

/-- The opcode table's words, in its numbering; a word out of the map is none. -/
theorem test_decode_table :
    decodeTableWord 32 4 = some .encrypt ∧ decodeTableWord 32 6 = none ∧ decodeTableWord 32 0x10 = none ∧
    decodeTableWord 8 5 = some .clear := by decide

/-- A command placed as the first after reset completes or goes on: R170, R171 (KEYLEN = 0), R172, R173 (no schedule), R174,
R175. -/
theorem test_first_command_runs :
    after (step (State.reset.withFetchWord 32 0)) (fun t => statusWord t.eng == 0x00000002#32) = true ∧
    after (step (State.reset.withFetchWord 32 1)) (fun t => statusWord t.eng == 0x00000012#32) = true ∧
    after (step (State.reset.withFetchWord 32 2)) (fun t => statusWord t.eng == 0x00000032#32) = true ∧
    after (step (State.reset.withFetchWord 32 3)) (fun t => statusWord t.eng == 0x00000032#32) = true ∧
    after (step (State.reset.withFetchWord 32 4)) (fun t => statusWord t.eng == 0x00000012#32) = true ∧
    after (step (State.reset.withFetchWord 32 5)) (fun t => statusWord t.eng == 0x00000002#32) = true := by
  refine ⟨?_, ?_, ?_, ?_, ?_, ?_⟩ <;> decide

/-! ## The datapath -/

/-- R100 and 95_test_vectors.md 2.1. -/
theorem test_sbox :
    sbox 0x53#8 = 0xed#8 ∧ sbox 0x00#8 = 0x63#8 ∧ sbox 0x9a#8 = 0xb8#8 ∧ sbox 0xed#8 = 0x55#8 ∧ sbox 0xff#8 = 0x16#8 := by
  decide

/-- R104, R106, R107: the corner cases. -/
theorem test_constant_products :
    xtime 0x80#8 = 0x1b#8 ∧ xtime 0x7f#8 = 0xfe#8 ∧ xtime 0xff#8 = 0xe5#8 ∧ xtime 0x57#8 = 0xae#8 ∧
    mul3 0x80#8 = 0x9b#8 ∧ mul3 0x57#8 = 0xf9#8 ∧ gmulC 0xff#8 2#2 = 0xe5#8 ∧ gmulC 0x57#8 0#2 = 0x00#8 ∧
    timesX 0x80#8 = 0x100#9 ∧ mod11B 0x100#9 = 0x1b#8 := by decide

/-- R102: the inverse of 0x53 is 0xca. -/
theorem test_inverse : gmul 0x53#8 0xca#8 = 0x01#8 ∧ sboxAffine 0xca#8 = 0xed#8 := by decide

/-- R122: RotWord and SubWord. -/
theorem test_words :
    rotWord #v[0x09, 0xcf, 0x4f, 0x3c] = #v[0xcf, 0x4f, 0x3c, 0x09] ∧
    subWord #v[0xcf, 0x4f, 0x3c, 0x09] = #v[0x8a, 0x84, 0xeb, 0x01] := by decide

/-- R123: the example. -/
theorem test_next_block :
    nextBlock (hexBlock 0x2b7e151628aed2a6abf7158809cf4f3c) 1 = hexBlock 0xa0fafe1788542cb123a339392a6c7605 := by
  decide +kernel

/-- R124: block 10 of the example key, and the zero fill after it. -/
theorem test_expand_128 :
    roundKey (keyExpansion128 keyV) 10 = hexBlock 0xd014f9a8c9ee2589e13f0cc8b6630ca6 ∧
    (keyExpansion128 keyV)[176] = 0x00#8 := by decide +kernel

/-- Key K3 of 95_test_vectors.md 2.4. -/
def keyK3 : KeyBytes := hexKey 0x000102030405060708090a0b0c0d0e0f101112131415161718191a1b1c1d1e1f

/-- R126: block 14 of K3. -/
theorem test_expand_block16 :
    roundKey (keyExpansion256 .srcBlock16 keyK3) 14 = hexBlock 0xed025f484f0523d2dd23e539ac89ff66 := by decide +kernel

/-- R127: block 14 of K3. -/
theorem test_expand_nosub :
    roundKey (keyExpansion256 .srcNk8NoSub keyK3) 14 = hexBlock 0x21e03c2434ead8b958d85d5eed77c640 := by decide +kernel

/-- R128: block 14 of K3. -/
theorem test_expand_fips :
    roundKey (keyExpansion256 .fips197 keyK3) 14 = hexBlock 0x24fc79ccbf0979e9371ac23c6d68de36 := by decide +kernel

/-- R142: the example. -/
theorem test_shift_rows :
    shiftRows (hexBlock 0x000102030405060708090a0b0c0d0e0f) = hexBlock 0x00050a0f04090e03080d02070c01060b := by decide +kernel

/-- R143 and 95_test_vectors.md 2.5: a column of each kind. -/
theorem test_mix_column :
    mixColumn 0xdb 0x13 0x53 0x45 = #v[0x8e, 0x4d, 0xa1, 0xbc] ∧ mixColumn 0x80 0x00 0x00 0x00 = #v[0x1b, 0x80, 0x80, 0x9b] ∧
    mixColumn 0x00 0x01 0x00 0x00 = #v[0x03, 0x02, 0x01, 0x01] ∧ mixColumn 0xc6 0xc6 0xc6 0xc6 = #v[0xc6, 0xc6, 0xc6, 0xc6] := by
  decide

/-- 95_test_vectors.md 2.5: round 1 of the trace of the key of V-SRC-1. -/
theorem test_round_1 :
    mixColumns (shiftRows (subBytes (hexBlock 0x193de3bea0f4e22b9ac68d2ae9f84808))) =
      hexBlock 0x046681e5e0cb199a48f8d37a2806264c := by decide +kernel

/-- V-SRC-1, the source's own vector. -/
theorem test_cipher :
    cipher (hexBlock 0x6bc1bee22e409f96e93d7e117393172a) (keyExpansion128 keyV) 10 =
      hexBlock 0x3ad77bb40d7a3660a89ecaf32466ef97 := by decide +kernel

/-! ## Registers -/

/-- R13: V-SRC-1's first KEY word, both ways; the last byte of a word. -/
theorem test_packing :
    leWords [0x2b, 0x7e, 0x15, 0x16] = [0x16157e2b#32] ∧ byteOfWord 0x16157e2b#32 0 = 0x2b#8 ∧
    byteOfWord 0x3c4fcf09#32 3 = 0x3c#8 := by decide

/-- R28: the STATUS words of 95_test_vectors.md (P1, P2, P6). -/
theorem test_status_words :
    statusWord ((Engine.reset.loadSchedule Engine.reset.rks 10#8).finish .ok) = 0x00000A06#32 ∧
    statusWord ((Engine.reset.loadSchedule Engine.reset.rks 14#8).finish .ok) = 0x00000E06#32 ∧
    statusWord ((Engine.reset.loadSchedule Engine.reset.rks 10#8).finish .busError) = 0x00000A56#32 ∧
    statusWord (((Engine.reset.loadSchedule Engine.reset.rks 10#8).finish .ok).ack) = 0x00000A04#32 ∧
    statusWord (Engine.reset.accept .illegal) = 0x00000001#32 := by decide

/-- R24: the ends of each run of offsets. -/
theorem test_register_offsets :
    regAt 0x03C = .key 7 ∧ regAt 0x040 = .din 0 ∧ regAt 0x05C = .dout 3 ∧ regAt 0x060 = .reserved ∧ regAt 0x0FC = .reserved ∧
    regAt 0x100 = .rk 0 ∧ regAt 0x1EC = .rk 59 ∧ regAt 0x1F0 = .reserved ∧ regAt 0x3FC = .reserved := by decide

/-- R26, R29: the reserved bits of CTRL and KEYLEN read 0. -/
theorem test_reserved_bits_read_zero :
    regValue (Engine.reset.regWrite .ctrl 0xFFFFFFFF#32) .ctrl = 0x00000001#32 ∧
    regValue (Engine.reset.regWrite .keylen 0xFFFFFFFF#32) .keylen = 0x000000FF#32 := by decide

/-- R28: a STATUS write with bit 1 clear keeps DONE. -/
theorem test_status_write :
    ((Engine.reset.finish .ok).regWrite .status 0x00000001#32).done = true ∧
    ((Engine.reset.finish .ok).regWrite .status 0x00000002#32).done = false := by decide

/-! ## The buffer memory -/

/-- R66: a range that passes 0xFFFFFFFF continues at 0; writing what an unlisted byte reads as removes the entry. -/
theorem test_memory_wraps :
    writeBytes [] 0xFFFFFFFF#32 [0xAA#8, 0xBB#8] = [(0, 0xBB#8), (0xFFFFFFFF, 0xAA#8)] ∧
    readBytes (writeBytes [] 0xFFFFFFFF#32 [0xAA#8, 0xBB#8]) 0xFFFFFFFF#32 2 = [0xAA#8, 0xBB#8] ∧
    writeBytes (writeBytes [] 5#32 [0xAA#8]) 5#32 [0x00#8] = [] := by decide

/-- The canonical form refuses a falling address, a listed zero byte and an address above 2^32. -/
theorem test_memory_wf :
    Memory.wf [(5, 1#8), (5, 2#8)] = false ∧ Memory.wf [(5, 0#8)] = false ∧ Memory.wf [(2 ^ 32, 1#8)] = false ∧
    Memory.wf [(5, 1#8), (6, 2#8)] = true := by decide

/-- R61: a byte below, at the ends of, and above the memory map. -/
theorem test_mem_ok :
    memOk plat 0x0FFF#32 .read = false ∧ memOk plat 0x1000#32 .read = true ∧ memOk plat 0x2FFF#32 .write = true ∧
    memOk plat 0x3000#32 .write = false ∧ memOk platRo 0x2000#32 .write = false := by decide

/-! ## The commands, one step each -/

/-- R170: NOP from reset. -/
theorem test_nop : after (exec .nop (ready.accept 0#32)) (fun t => statusWord t.eng == 0x00000002#32) = true := by decide

/-- R171: a bad key length. -/
theorem test_expand_key_error :
    after (exec .expandKey ((ready.setEng (ready.eng.setKeylen 15#8)).accept 1#32)) (fun t => statusWord t.eng == 0x00000012#32) =
      true := by decide

/-- R171, R35: RK4 and RK43 of the key of V-SRC-1, and STATUS. -/
theorem test_expand_key :
    after (exec .expandKey
        ((ready.setEng { ready.eng with key := #v[0x16157e2b, 0xa6d2ae28, 0x8815f7ab, 0x3c4fcf09, 0, 0, 0, 0] }).accept 1#32
          |> fun s => s.setEng (s.eng.enter .expand)))
      (fun t => statusWord t.eng == 0x00000A06#32 && regValue t.eng (.rk 4) == 0x17fefaa0#32 &&
        regValue t.eng (.rk 43) == 0xa60c63b6#32 && regValue t.eng (.rk 44) == 0#32) = true := by decide +kernel

/-- R172: no schedule held. -/
theorem test_encrypt_block_missing :
    after (exec .encryptBlock (ready.accept 2#32)) (fun t => statusWord t.eng == 0x00000032#32) = true := by decide

/-- R172: the example of the rule, the block of FIPS-197 Appendix B in register words. -/
theorem test_encrypt_block :
    (((ready.setEng { ready.eng with
        din := #v[0xa8f64332, 0x8d305a88, 0xa2983131, 0x340737e0], rks := keyExpansion128 keyV, rounds := 10#8, keyvalid := true }).accept
          2#32).eng.encryptDin).dout = #v[0x1d842539, 0xfb09dc02, 0x978511dc, 0x320b6a19] := by decide +kernel

/-- R173, R203: MISSING_INPUT before the length check; then the length. -/
theorem test_ecb_encrypt_checks :
    after (exec .ecbEncrypt ((ready.setEng (ready.eng.setLen 17#32)).accept 3#32)) (fun t => t.eng.errcode == .missingInput) = true ∧
    after (exec .ecbEncrypt ((keyed.setEng (keyed.eng.setLen 17#32)).accept 3#32))
      (fun t => t.eng.errcode == .invalidBufferLength) = true := by decide

/-- R174: the example, KEYLEN = 15 with LEN = 17, then LEN = 17 alone. -/
theorem test_encrypt_checks :
    after (exec .encrypt ((ready.setEng ((ready.eng.setLen 17#32).setKeylen 15#8)).accept 4#32))
      (fun t => statusWord t.eng == 0x00000012#32) = true ∧
    after (exec .encrypt ((ready.setEng (ready.eng.setLen 17#32)).accept 4#32)) (fun t => statusWord t.eng == 0x00000022#32) =
      true := by decide

/-- R175: after CLEAR from a held schedule. -/
theorem test_clear :
    after (exec .clear ((keyed.setEng (keyed.eng.setDin 2 7#32)).accept 5#32))
      (fun t => statusWord t.eng == 0x00000002#32 && t.eng.din[2] == 0#32 && t.eng.keylen == 16#8) = true := by decide

/-- R167, P6: a BLOCK step whose destination admits no write: BUS_ERROR, BLKCNT 0, no byte changed. -/
theorem test_block_bus_error :
    blockOk platRo 0x1000#32 .read = true ∧ blockOk platRo 0x1FF8#32 .write = false ∧ blockOk plat 0x2FF8#32 .read = false := by
  decide

/-! ## The host -/

/-- R44, R210: the host samples IRQ at the routed input, and at no other. -/
theorem test_irq_route :
    hostIrq plat ((Engine.reset.setIe true).finish .ok) 5 = true ∧ hostIrq plat ((Engine.reset.setIe true).finish .ok) 4 = false ∧
    hostIrq plat (Engine.reset.finish .ok) 5 = false := by decide

/-- R241: a buffer of one block owns its 16 bytes and no more. -/
theorem test_owned_bytes :
    (ready.accept 3#32).races 0x100F#32 1 = true ∧ (ready.accept 3#32).races 0x1010#32 1 = false ∧
    (ready.accept 3#32).races 0x1FFF#32 2 = true ∧ (ready.accept 0#32).races 0x1000#32 1 = false := by decide

/-- R87: STATUS read into a name, then a branch on its BUSY bit; a branch on a name never bound has no meaning. -/
theorem test_host_branch :
    evalCond [(0, .word 0x00000001#32)] (.field 0 0 0 1) = some true ∧
    evalCond [(0, .word 0x00000A56#32)] (.field 0 7 4 5) = some true ∧ evalCond [] (.field 0 0 0 1) = none := by decide

/-! ## Witnesses: the hypotheses of each statement, met by a concrete state (at the ends of a range where there is one) -/

/-- DecodeOfEncodeIsTheCommand. -/
theorem witness_wf : Instr.nop.wf = true ∧ Instr.clear.wf = true := by decide

/-- StepRunsTheAcceptedCommand, its five clauses. -/
theorem witness_step_runs :
    ((accepted ready 0#32 1).turns = [.engine] ∧ (accepted ready 0#32 1).eng.op = .cmd .nop) ∧
    ((ready.accept 1#32).turns = [] ∧ hostEnabled (ready.accept 1#32) = false ∧ (ready.accept 1#32).eng.phase ≠ .idle ∧
      (ready.accept 1#32).eng.op = .cmd .expandKey) ∧
    ((accepted ready 6#32 1).turns = [.engine] ∧ (accepted ready 6#32 1).eng.op = .illegal) ∧
    decode 5#32 = .command .clear ∧ decodeTableWord 32 0 = some .nop := by decide

/-- IdleEngineKeepsAllState. -/
theorem witness_idle : ready.eng.phase = .idle ∧ ready.turns = [] ∧ hostEnabled ready = false := by decide

/-- SequencerTransfers, each phase. -/
theorem witness_phases :
    (ready.accept 4#32).eng.phase = .start ∧ ((ready.accept 4#32).goTo .expand).eng.phase = .expand ∧
    inBlock.eng.phase = .block ∧ ready.eng.phase = .idle := by decide

/-- RegisterMapOffsets, the reserved runs. -/
theorem witness_reserved_runs :
    (0x060 ≤ 0x060 ∧ 0x060 ≤ 0x0FC) ∧ (0x060 ≤ 0x0FC ∧ 0x0FC ≤ 0x0FC) ∧ 0x060 % 4 = 0 ∧ 0x0FC % 4 = 0 ∧
    (0x1F0 ≤ 0x3FC ∧ 0x3FC ≤ 0x3FC) ∧ 0x1F0 % 4 = 0 ∧ 0x3FC % 4 = 0 := by decide

/-- StatusRegister: ACK, idle and while a command runs. -/
theorem witness_status_write :
    (hosted ready (.write 32 0x008 2#32)).turns = [.host] ∧
    (hosted ready (.write 32 0x008 2#32)).host.current = some (.write 32 0x008 2#32) ∧
    (hosted (ready.accept 0#32) (.write 32 0x008 2#32)).eng.busy = true := by decide

/-- WrittenRegisterReadsBack: the first and the last offset of the window, and an engine that runs no command. -/
theorem witness_not_busy :
    Engine.reset.busy = false ∧ (hosted ready (.write 32 0x000 1#32)).turns = [.host] ∧
    (hosted ready (.write 32 0x000 1#32)).host.current = some (.write 32 0x000 1#32) ∧ 0x000 % 4 = 0 ∧ 0x000 ≠ 0x004 ∧
    (hosted ready (.write 32 0x3FC 1#32)).host.current = some (.write 32 0x3FC 1#32) ∧ 0x3FC < 1024 ∧ 0x3FC % 4 = 0 := by decide

/-- RegisterWriteFrame: two registers of one file, and a register that is not STATUS. -/
theorem witness_other_register : (Reg.key 0 ≠ Reg.key 7) ∧ (Reg.ctrl ≠ Reg.status) := by decide

/-- RegisterReadHasNoSideEffect: the first and the last offset of the window. -/
theorem witness_register_read :
    ((hosted ready (.read 32 0x000 3)).turns = [.host] ∧
      (hosted ready (.read 32 0x000 3)).host.current = some (.read 32 0x000 3) ∧ 0x000 < 1024 ∧ 0x000 % 4 = 0) ∧
    ((hosted ready (.read 32 0x3FC 3)).host.current = some (.read 32 0x3FC 3) ∧ 0x3FC < 1024 ∧ 0x3FC % 4 = 0) ∧
    (hosted ready (.read 32 0x3FC 3)).eng.busy = false := by decide

/-- ReadsWhileBusy, both clauses. -/
theorem witness_read_busy :
    (ready.accept 1#32).eng.busy = true ∧ (∃ w, Reg.rk 59 = .rk w) ∧
    ¬((∃ k, Reg.din 0 = .dout k) ∨ (∃ w, Reg.din 0 = .rk w)) := by
  refine ⟨rfl, ⟨59, rfl⟩, ?_⟩
  rintro (⟨_, h⟩ | ⟨_, h⟩) <;> cases h

/-- CommandWriteIsAccepted: a command without a buffer, and a buffer command whose ranges do not cover the window. -/
theorem witness_command_write :
    ((hosted ready (.write 32 0x004 0#32)).turns = [.host] ∧
      (hosted ready (.write 32 0x004 0#32)).host.current = some (.write 32 0x004 0#32) ∧
      (hosted ready (.write 32 0x004 0#32)).eng.busy = false ∧ isBufferCmd (opOfWord 0#32) = false) ∧
    ((hosted ready (.write 32 0x004 4#32)).host.current = some (.write 32 0x004 4#32) ∧
      isBufferCmd (opOfWord 4#32) = true ∧ aliases (hosted ready (.write 32 0x004 4#32)).cfg ready.eng = false) := by
  decide +kernel

/-- WritesWhileBusyAreIgnored: CMD, the last offset, CTRL and STATUS. -/
theorem witness_write_busy :
    (hosted (ready.accept 0#32) (.write 32 0x004 1#32)).turns = [.host] ∧
    (hosted (ready.accept 0#32) (.write 32 0x004 1#32)).host.current = some (.write 32 0x004 1#32) ∧
    (hosted (ready.accept 0#32) (.write 32 0x004 1#32)).eng.busy = true ∧
    (hosted (ready.accept 0#32) (.write 32 0x3FC 1#32)).host.current = some (.write 32 0x3FC 1#32) ∧
    (hosted (ready.accept 0#32) (.write 32 0x000 1#32)).host.current = some (.write 32 0x000 1#32) ∧
    (hosted (ready.accept 0#32) (.write 32 0x008 2#32)).host.current = some (.write 32 0x008 2#32) := by decide

/-- UnsupportedAccessFaults: a 16-bit write at offset 0, a 32-bit read at the last byte of the window. -/
theorem witness_unsupported :
    (hosted ready (.write 16 0 0#32)).turns = [.host] ∧
    ((hosted ready (.write 16 0 0#32)).host.current = some (.write 16 0 0#32) ∧ (16 ≠ 32 ∨ 0 % 4 ≠ 0)) ∧
    ((hosted ready (.read 32 1023 0)).host.current = some (.read 32 1023 0) ∧ 1023 < 1024 ∧ (32 ≠ 32 ∨ 1023 % 4 ≠ 0)) := by
  decide

/-- The invariant holds of the state in which a buffer command has just been accepted. -/
theorem accepted_inv (st : HostStmt) : (hosted (ready.accept 3#32) st).Inv :=
  ⟨⟨⟨iff_of_true rfl fun h => Phase.noConfusion h, fun _ => ⟨rfl, rfl⟩⟩, ⟨rfl, fun _ => rfl⟩, Nat.zero_le _, ⟨rfl, rfl⟩⟩, rfl,
    fun _ _ => List.mem_cons_self⟩

/-- HostAccessToRunningBuffersFaults: the last byte of the source range, by a read of two bytes from the byte before it; the
first byte of the destination range, by a write. -/
theorem witness_race :
    (hosted (ready.accept 3#32) (.memRead 0x100E#32 2 0)).Inv ∧
    ((hosted (ready.accept 3#32) (.memRead 0x100E#32 2 0)).turns = [.host] ∧
      (hosted (ready.accept 3#32) (.memRead 0x100E#32 2 0)).host.current = some (.memRead 0x100E#32 2 0) ∧
      (ready.accept 3#32).eng.phase ≠ .idle ∧ isBufferCmd (ready.accept 3#32).eng.op = true ∧
      inRange ready.eng.src ready.eng.len (byteAddr 0x100E#32 1) = true ∧ 1 < 2) ∧
    ((hosted (ready.accept 3#32) (.memWrite 0x2000#32 [1#8])).host.current = some (.memWrite 0x2000#32 [1#8]) ∧
      inRange ready.eng.dst ready.eng.len (byteAddr 0x2000#32 0) = true ∧ 0 < [1#8].length) :=
  ⟨accepted_inv _, by decide, by decide⟩

/-- HostAccessToRunningBuffersFaults: a range still held after the completion of its command, not yet observed. -/
theorem witness_held :
    (hosted ((ready.accept 3#32).finish .missingInput) (.memRead 0x100F#32 1 0)).eng.phase = .idle ∧
    { src := 0x1000#32, dst := 0x2000#32, len := 16#32 } ∈
      (hosted ((ready.accept 3#32).finish .missingInput) (.memRead 0x100F#32 1 0)).owned ∧
    Claim.covers { src := 0x1000#32, dst := 0x2000#32, len := 16#32 } (byteAddr 0x100F#32 0) = true ∧ 0 < 1 := by decide

/-- `ready` with a destination range that covers the last byte of the register window. -/
def overWindow : State := hosted (ready.setEng (ready.eng.setDst 0x2BFF#32)) (.write 32 0x004 4#32)

/-- BufferOverTheWindowFaults. -/
theorem witness_alias :
    overWindow.turns = [.host] ∧ overWindow.host.current = some (.write 32 0x004 4#32) ∧ overWindow.eng.busy = false ∧
    overWindow.cfg.windowAt = some 0x2800#32 ∧ (0x2BFF#32 - 0x2800#32).toNat < 1024 ∧
    memOk overWindow.cfg 0x2BFF#32 .write = true ∧ inRange overWindow.eng.dst overWindow.eng.len 0x2BFF#32 = true := by
  decide

/-- R207: the state of witness_alias does fault; one byte later it does not. -/
theorem test_alias :
    faults (step overWindow) .bufferAlias = true ∧ aliases plat (ready.eng.setDst 0x2C00#32) = false := by decide +kernel

/-- OnlyHostStatementsFault: one step of each fault (and test_alias), of a host that writes 16 bits and of one that reads a claimed
byte; a step of the ENGINE and a RESET. -/
theorem witness_faulted :
    step (hosted ready (.write 16 0 0#32)) = .fault .hostAccess ∧
    faults (step (hosted (ready.accept 3#32) (.memRead 0x100F#32 1 0))) .hostBufferRace = true ∧
    (ready.setTurns [.engine]).turns = [.engine] ∧ (ready.setTurns [.reset]).turns = [.reset] := ⟨rfl, by decide, rfl, rfl⟩

/-- `ready` after a NOP completed with the interrupt enabled. -/
def irqHigh (st : HostStmt) : State := hosted (ready.setEng ((ready.eng.setIe true).finish .ok)) st

/-- ObservedCompletionReleasesTheRanges: IRQ high at the routed input, at another input, and low. -/
theorem witness_irq_sample :
    ((irqHigh (.irq 5 0)).turns = [.host] ∧ (irqHigh (.irq 5 0)).host.current = some (.irq 5 0) ∧
      (irqHigh (.irq 5 0)).cfg.irqRoute = some 5 ∧ (irqHigh (.irq 5 0)).eng.ie = true ∧ (irqHigh (.irq 5 0)).eng.done = true) ∧
    (irqHigh (.irq 4 0)).cfg.irqRoute ≠ some 4 ∧ (hosted ready (.irq 5 0)).eng.done = false := by decide

/-- SboxIsTheAffineInverse. -/
theorem witness_nonzero : (0xFF#8 : Byte) ≠ 0x00#8 := by decide

/-- BlockRecurrenceSchedules, WordRecurrenceSchedules, SixteenByteSchedulesIgnoreTheRest and CipherRoundSequence: the ends of
their index ranges. -/
theorem witness_indices :
    (1 ≤ 1 ∧ 1 ≤ 10) ∧ (1 ≤ 14 ∧ 14 ≤ 14) ∧ (8 ≤ 8 ∧ 8 < 60) ∧ (8 ≤ 59 ∧ 59 < 60) ∧ 176 ≤ (176 : Fin 240).val ∧
    176 ≤ (239 : Fin 240).val ∧ (10 = 10 ∨ 10 = 14) ∧ (14 = 10 ∨ 14 = 14) := by decide

/-- WordRecurrenceSchedules: the two modes. -/
theorem witness_modes : KsMode.srcNk8NoSub ≠ .srcBlock16 ∧ KsMode.fips197 ≠ .srcBlock16 := by decide

/-- SixteenByteSchedulesIgnoreTheRest: two keys that differ from byte 16 on. -/
theorem witness_keys :
    (∀ i : Fin 32, i.val < 16 → keyV[i] = (hexKey (0x2b7e151628aed2a6abf7158809cf4f3c * 256 ^ 16 + 1))[i]) ∧
    keyV ≠ hexKey (0x2b7e151628aed2a6abf7158809cf4f3c * 256 ^ 16 + 1) := by decide +kernel

/-- NopCompletes, ChecksComeBeforeWork (with witness_phases), and the START clauses of the other commands: each command's START phase, and each side of its checks. -/
theorem witness_start :
    (ready.accept 0#32).eng.phase = .start ∧
    (∃ t, exec .nop (State.reset.accept 0x00000000#32) = .next t) ∧
    ((ready.accept 1#32).eng.phase = .start ∧ (ready.accept 1#32).eng.keylen = 16#8) ∧
    ((ready.setEng (ready.eng.setKeylen 31#8)).eng.keylen ≠ 16#8 ∧ (ready.setEng (ready.eng.setKeylen 31#8)).eng.keylen ≠ 32#8) ∧
    ((keyed.accept 2#32).eng.phase = .start ∧ (keyed.accept 2#32).eng.keyvalid = true) ∧
    ((ready.accept 2#32).eng.phase = .start ∧ (ready.accept 2#32).eng.keyvalid = false) ∧
    ((keyed.accept 3#32).eng.keyvalid = true ∧ (keyed.accept 3#32).eng.len ≠ 0#32 ∧ (keyed.accept 3#32).eng.len.toNat % 16 = 0) ∧
    ((keyed.setEng (keyed.eng.setLen 0#32)).accept 3#32).eng.len = 0#32 ∧
    ((keyed.setEng (keyed.eng.setLen 17#32)).accept 3#32).eng.len.toNat % 16 ≠ 0 ∧
    ((ready.accept 4#32).eng.keylen = 16#8 ∧ (ready.accept 4#32).eng.len ≠ 0#32 ∧ (ready.accept 4#32).eng.len.toNat % 16 = 0) ∧
    (ready.accept 5#32).eng.phase = .start :=
  ⟨rfl, ⟨_, rfl⟩, by decide, by decide, by decide, by decide, by decide, by decide, by decide, by decide, rfl⟩

/-- ExpandKeyCompletes and EncryptExpandsThenEntersBlocks: the EXPAND phase of each. -/
theorem witness_expand :
    (((ready.accept 1#32).goTo .expand).eng.phase = .expand ∧ ((ready.accept 1#32).goTo .expand).eng.op = .cmd .expandKey) ∧
    (((ready.accept 4#32).goTo .expand).eng.phase = .expand ∧ ((ready.accept 4#32).goTo .expand).eng.op = .cmd .encrypt) := by
  decide

/-- `inBlock` on the platform whose upper half answers no write. -/
def inBlockRo : State := { inBlock with cfg := platRo }

/-- `inBlock` with a source whose last byte is above the memory. -/
def inBlockHigh : State := inBlock.setEng (inBlock.eng.setSrc 0x2FF1#32)

/-- BlockStepEncryptsOneBlock (the last block, and one that is not), FailedReadIsABusError, FailedWriteIsABusError. -/
theorem witness_block :
    (inBlock.mem.wf = true ∧ inBlock.eng.phase = .block ∧
      blockOk inBlock.cfg (blockAddr inBlock.eng.src inBlock.eng.blk) .read = true ∧
      blockOk inBlock.cfg (blockAddr inBlock.eng.dst inBlock.eng.blk) .write = true ∧
      inBlock.eng.blk + 1 = inBlock.eng.len.toNat / 16) ∧
    (inBlock.setEng (inBlock.eng.setLen 32#32)).eng.blk + 1 ≠ (inBlock.setEng (inBlock.eng.setLen 32#32)).eng.len.toNat / 16 ∧
    (inBlockHigh.eng.phase = .block ∧ blockOk inBlockHigh.cfg (blockAddr inBlockHigh.eng.src inBlockHigh.eng.blk) .read = false) ∧
    (inBlockRo.mem.wf = true ∧ inBlockRo.eng.phase = .block ∧
      blockOk inBlockRo.cfg (blockAddr inBlockRo.eng.src inBlockRo.eng.blk) .read = true ∧
      blockOk inBlockRo.cfg (blockAddr inBlockRo.eng.dst inBlockRo.eng.blk) .write = false ∧
      memOk inBlockRo.cfg (byteAddr (blockAddr inBlockRo.eng.dst inBlockRo.eng.blk) 15) .write = false) := by
  decide +kernel

/-- BlockStepEncryptsOneBlock, the failed writes and ResetMayTearOneBlock: an address outside the destination block. -/
theorem witness_outside : ¬InBlock (blockAddr inBlock.eng.dst inBlock.eng.blk) 0x2010#32 := by
  rintro ⟨j, hj, h⟩
  have := congrArg BitVec.toNat h
  simp [byteAddr, blockAddr, inBlock, accepted, keyed, ready, BitVec.toNat_add] at this
  omega

/-- IllegalCommandCompletes: the smallest illegal word and the largest. -/
theorem witness_illegal :
    (ready.accept 6#32).eng.phase = .start ∧ 5 < (6#32 : Word).toNat ∧ 5 < (0xFFFFFFFF#32 : Word).toNat ∧
    (ready.setTurns [.engine]).turns = [.engine] := by decide

/-- CommandRegisterFrame and CommandMemoryFrame: a state that meets the invariant, its command's step. -/
theorem witness_frame :
    (hosted (ready.accept 3#32) .stop).Inv ∧ (hosted (ready.accept 3#32) .stop).eng.op = .cmd .ecbEncrypt ∧
    (∃ t, exec .ecbEncrypt (hosted (ready.accept 3#32) .stop) = .next t) ∧ Instr.ecbEncrypt ≠ .clear ∧
    Instr.nop ≠ .ecbEncrypt ∧ inRange ready.eng.dst ready.eng.len 0x2010#32 = false ∧ memOk plat 0x3000#32 .write = false :=
  ⟨accepted_inv _, rfl, ⟨_, rfl⟩, by decide, by decide, by decide, by decide⟩

/-- ResetAbortsTheCommand and ResetMayTearOneBlock: RESET while a command runs, in the BLOCK phase and before it. -/
theorem witness_reset :
    ((inBlock.setTurns [.reset]).turns = [.reset] ∧ inBlock.mem.wf = true ∧ inBlock.eng.phase = .block) ∧
    ((ready.accept 4#32).setTurns [.reset]).eng.phase ≠ .block := by decide

/-- HostMemoryWriteThenRead: a write and a read that pass 0xFFFFFFFF. -/
theorem witness_host_memory :
    ((hosted ready (.memWrite 0xFFFFFFFF#32 [1#8, 2#8])).mem.wf = true ∧
      (hosted ready (.memWrite 0xFFFFFFFF#32 [1#8, 2#8])).turns = [.host] ∧
      (hosted ready (.memWrite 0xFFFFFFFF#32 [1#8, 2#8])).host.current = some (.memWrite 0xFFFFFFFF#32 [1#8, 2#8]) ∧
      [1#8, 2#8].length ≤ 2 ^ 32 ∧ (hosted ready (.memWrite 0xFFFFFFFF#32 [1#8, 2#8])).races 0xFFFFFFFF#32 2 = false ∧
      2 ≤ ((1#32 : Addr) - 0xFFFFFFFF#32).toNat) ∧
    (hosted ready (.memRead 0xFFFFFFFF#32 2 0)).turns = [.host] ∧
    (hosted ready (.memRead 0xFFFFFFFF#32 2 0)).host.current = some (.memRead 0xFFFFFFFF#32 2 0) ∧
    (hosted ready (.memRead 0xFFFFFFFF#32 2 0)).races 0xFFFFFFFF#32 2 = false := by decide

/-- ObservedCompletionReleasesTheRanges, STATUS read busy and idle. -/
theorem witness_status_read :
    ((hosted (ready.accept 3#32) (.read 32 0x008 0)).Inv ∧ (hosted (ready.accept 3#32) (.read 32 0x008 0)).eng.busy = true ∧
      (hosted (ready.accept 3#32) (.read 32 0x008 0)).turns = [.host] ∧
      (hosted (ready.accept 3#32) (.read 32 0x008 0)).host.current = some (.read 32 0x008 0)) ∧
    ((hosted ready (.read 32 0x008 0)).Inv ∧ (hosted ready (.read 32 0x008 0)).eng.busy = false ∧
      (hosted ready (.read 32 0x008 0)).host.current = some (.read 32 0x008 0)) :=
  ⟨⟨accepted_inv _, by decide, by decide, by decide⟩,
    ⟨⟨⟨by decide, by decide⟩, trivial, Nat.zero_le _, ⟨rfl, rfl⟩⟩, rfl, fun h => absurd rfl h⟩, by decide, by decide⟩

/-- R89, U11: `END` with BUSY = 0 is an end state; `END` with BUSY = 1 is none, nor is the state after the ENGINE has finished. -/
theorem test_end :
    after (step (hosted ready .stop)) State.ended = true ∧
    after (step (hosted (ready.accept 0#32) .stop)) (fun t => t.host.run == .endedBusy && !t.ended) = true ∧
    after (step (hosted (ready.accept 0#32) .stop))
      (fun t => after (step t) (fun u => u.host.run == .endedBusy && !u.eng.busy && !u.ended)) = true := by decide

/-- HostBranchesAndEnds: a host at `END`, one that ended with an end state, and one that ended without. -/
theorem witness_end :
    ((hosted ready .stop).turns = [.host] ∧ (hosted ready .stop).host.current = some .stop) ∧
    ((hosted ready .stop).host.run = .running ∧
      ∃ t, step (hosted ready .stop) = .next t ∧ t.host.run ≠ .running ∧ t.Inv ∧ t.ended = true ∧ ∀ ts, t.turns ≠ .reset :: ts) ∧
    ∃ t, step (hosted (ready.accept 0#32) .stop) = .next t ∧ t.host.run = .endedBusy :=
  ⟨by decide,
    ⟨rfl, _, rfl, by decide,
      ⟨⟨⟨by decide, by decide⟩, trivial, Nat.zero_le _, ⟨rfl, rfl⟩⟩, rfl, fun h => absurd rfl h⟩, rfl, fun _ h => by cases h⟩,
    _, rfl, rfl⟩

/-- HostBranchesAndEnds: a branch on BUSY whose name is bound, taken and not taken. -/
theorem witness_branch :
    ((ready.setHost { prog := pseudoWait 7 0, pc := 2, env := [(0, .word 1#32)], run := .running }).setTurns [.host]).host.current =
      some (.ifGoto (.field 0 0 0 1) 7) ∧
    lookup [(0, .word 1#32)] 0 = some (.word 1#32) ∧ labelAt (pseudoWait 7 0) 7 = some 0 ∧
    (1#32 : Word).toNat / 2 ^ 0 % 2 ^ (0 + 1 - 0) = 1 ∧ (2#32 : Word).toNat / 2 ^ 0 % 2 ^ (0 + 1 - 0) ≠ 1 := by decide

/-- PseudoInstructionsExpand: a key of each length, a block. -/
theorem witness_lengths :
    (List.replicate 16 0x2b#8).length = 16 ∧ (List.replicate 32 0x2b#8).length = 32 := by decide

/-- StepKeepsTheInvariant: a state that meets it and has a next state. -/
theorem witness_step_invariant :
    (hosted (ready.accept 3#32) .stop).Inv ∧ ∃ t, step (hosted (ready.accept 3#32) .stop) = .next t :=
  ⟨accepted_inv _, ⟨_, rfl⟩⟩

/-- ECB_ENCRYPT accepted with a schedule held: one block in place. -/
def ecbInPlace : State := accepted (keyed.setEng (keyed.eng.setDst 0x1000#32)) 3#32 2

/-- ENCRYPT accepted: one block, from one range to another. -/
def encryptApart : State := accepted ready 4#32 3

theorem keyed_zero : keyed.eng.keyInv := .inr ⟨rfl, fun i _ => by simp [keyed, Engine.loadSchedule]⟩

/-- EcbEncryptRunsToCompletion: the ranges equal. -/
theorem witness_ecb_run :
    ecbInPlace.Inv ∧ ecbInPlace.eng.phase = .start ∧ ecbInPlace.eng.op = .cmd .ecbEncrypt ∧ ecbInPlace.eng.keyvalid = true ∧
    lenOk ecbInPlace.eng = true ∧ ecbInPlace.eng.buffersOk ecbInPlace.cfg ∧ ecbInPlace.eng.src = ecbInPlace.eng.dst ∧
    ecbInPlace.turns = List.replicate (1 + blockCount ecbInPlace.eng) .engine ++ [] := by
  refine ⟨⟨⟨⟨by decide, by decide⟩, ⟨rfl, fun _ => rfl⟩, Nat.zero_le _, keyed_zero⟩, rfl, fun _ _ => List.mem_cons_self⟩, rfl, rfl,
    rfl, by decide, ?_, rfl, by decide⟩
  intro i hi
  have h0 : i = 0 := by
    have : blockCount ecbInPlace.eng = 1 := by decide
    omega
  subst h0
  decide +kernel

/-- EncryptRunsToCompletion: the ranges apart. -/
theorem witness_encrypt_run :
    encryptApart.Inv ∧ encryptApart.eng.phase = .start ∧ encryptApart.eng.op = .cmd .encrypt ∧
    keylenOk encryptApart.eng = true ∧ lenOk encryptApart.eng = true ∧ encryptApart.eng.buffersOk encryptApart.cfg ∧
    encryptApart.eng.rangesApart ∧ encryptApart.turns = List.replicate (2 + blockCount encryptApart.eng) .engine ++ [] := by
  refine ⟨⟨⟨⟨by decide, by decide⟩, ⟨rfl, fun _ => rfl⟩, Nat.zero_le _, ⟨rfl, rfl⟩⟩, rfl, fun _ _ => List.mem_cons_self⟩, rfl, rfl,
    by decide, by decide, ?_, ?_, by decide⟩
  · intro i hi
    have h0 : i = 0 := by
      have : blockCount encryptApart.eng = 1 := by decide
      omega
    subst h0
    decide +kernel
  · intro a ha
    have h1 : (a - 0x1000#32).toNat < 16 := by simpa [inRange, encryptApart, accepted, ready] using ha
    show decide ((a - 0x2000#32).toNat < (16#32 : Word).toNat) = false
    simp only [decide_eq_false_iff_not]
    bv_omega

end Sys2Proof.Machine.Tests
end

section
/-! Proofs of the statements of 10_state.md: register writes while a command runs, the interrupt line, the values after RESET. -/

namespace Sys2Proof.Machine

/-! ## Register writes while a command runs (rule R39) -/

/-- R24: the word index at which the map has a register; 256 is past the window, for the reserved offsets, which have no one index. -/
def Reg.index : Reg → Nat
  | .ctrl => 0
  | .cmd => 1
  | .status => 2
  | .keylen => 3
  | .len => 4
  | .src => 5
  | .dst => 6
  | .blkcnt => 7
  | .key k => 8 + k.val
  | .din k => 16 + k.val
  | .dout k => 20 + k.val
  | .rk w => 64 + w.val
  | .reserved => 256

/-- R24: no register stands at two indices. -/
theorem index_regAtIndex {w : Nat} (h : regAtIndex w ≠ .reserved) : (regAtIndex w).index = w := by
  unfold regAtIndex at h ⊢
  split
  · next hlow => interval_cases w <;> rfl
  · split_ifs at h ⊢ with hkey hdin hdout hrk
    · exact Nat.add_sub_of_le hkey.1
    · exact Nat.add_sub_of_le hdin.1
    · exact Nat.add_sub_of_le hdout.1
    · exact Nat.add_sub_of_le hrk.1
    · exact absurd rfl h

/-- R24: the aligned offset that names a register. -/
theorem offset_of_regAt {off : Nat} {r : Reg} (h4 : off % 4 = 0) (h : regAt off = r) (hr : r ≠ .reserved) :
    off = 4 * r.index := by
  subst h
  have hw : (regAt off).index = off / 4 := index_regAtIndex hr
  omega

/-- R39: while a command runs, CTRL and STATUS are the only registers a write changes. -/
theorem Engine.regWrite_of_busy {e : Engine} {r : Reg} (v : Word) (hb : e.busy = true) (hctrl : r ≠ .ctrl)
    (hstatus : r ≠ .status) : e.regWrite r v = e := by
  cases r with
  | ctrl => exact absurd rfl hctrl
  | status => exact absurd rfl hstatus
  | keylen | len | src | dst | key k | din k => exact if_pos hb
  | cmd | blkcnt | dout k | rk w | reserved => rfl

/-- R28: a write to STATUS clears DONE where bit 1 is 1 (W1C). -/
theorem Engine.regWrite_status (e : Engine) (v : Word) :
    e.regWrite .status v = { e with done := e.done && !v.getLsbD 1 } := by
  unfold Engine.regWrite
  cases v.getLsbD 1
  · simp
  · simp [Engine.ack]

/-- R27, R39: while a command runs, a write to any register, CMD among them, does no more than write the engine's register. -/
theorem State.regWrite_of_busy {s : State} (r : Reg) (v : Word) (hb : s.eng.busy = true) :
    s.regWrite r v = .next (s.setEng (s.eng.regWrite r v)) := by
  unfold State.regWrite
  split
  · next hcmd =>
    subst hcmd
    exact if_pos hb
  · rfl

/-- R39: the HOST step of a supported register write while a command runs. -/
theorem step_host_write_of_busy {s : State} {ts : List Agent} {off : Nat} {v : Word} (h : s.turns = .host :: ts)
    (hc : s.host.current = some (.write 32 off v)) (ho : off < 1024) (h4 : off % 4 = 0) (hb : s.eng.busy = true) :
    step s = .next ((s.setTurns ts).setEng (s.eng.regWrite (regAt off) v)).hostAdvance := by
  rw [step_host_write h hc ho h4, State.regWrite_of_busy (s := s.setTurns ts) (regAt off) v hb]
  rfl

/-- Settles O16: the write reaches only the engine's register, and of the registers only CTRL and STATUS take it. -/
theorem writesWhileBusyAreIgnored : Obligations.WritesWhileBusyAreIgnored := by
  intro s ts off v h hc ho h4 hb
  have hstep := step_host_write_of_busy h hc ho h4 hb
  refine ⟨fun hctrl hstatus => ⟨_, hstep, ?_, rfl, rfl⟩, ?_, ?_⟩
  · exact Engine.regWrite_of_busy v hb (fun hr => hctrl (offset_of_regAt h4 hr (by decide)))
      (fun hr => hstatus (offset_of_regAt h4 hr (by decide)))
  · rintro rfl
    exact ⟨_, hstep, rfl, rfl⟩
  · rintro rfl
    exact ⟨_, hstep, Engine.regWrite_status s.eng v, rfl⟩

/-! ## The interrupt line (rule R44) -/

theorem irqLine_iff (e : Engine) : irqLine e = true ↔ e.ie = true ∧ e.done = true := by simp [irqLine]

theorem irqLine_of_not_done {e : Engine} (h : e.done = false) : irqLine e = false := by simp [irqLine, h]

/-- R209: completion sets DONE, so IRQ is then the enable bit. -/
theorem irqLine_finish (e : Engine) (c : ErrCode) : irqLine (e.finish c) = e.ie := by simp [irqLine]

/-- Settles O21: IRQ is the conjunction of IE and DONE; completion sets DONE, ACK and acceptance clear it. -/
theorem irqFollowsEnableAndDone : Obligations.IrqFollowsEnableAndDone :=
  ⟨irqLine_iff, irqLine_finish, fun e => irqLine_of_not_done e.ack_done, fun e o => irqLine_of_not_done (e.accept_done o)⟩

/-! ## The values after RESET (rule R46) -/

/-- R13: zero bytes pack into zero words. -/
theorem wordsOfBytes_replicate_zero (n : Nat) :
    wordsOfBytes (Vector.replicate (4 * n) 0#8) = Vector.replicate n 0#32 := by
  ext i hi
  simp [wordsOfBytes, leWord]

/-- R35: with a zero schedule every RK register reads 0. -/
theorem rkWord_replicate_zero (w : Fin 60) : rkWord (Vector.replicate 240 0#8) w = 0#32 := by
  rw [rkWord, wordsOfBytes_replicate_zero 60]
  simp

/-- R46: every register of the map reads 0 after RESET. -/
theorem regValue_reset (r : Reg) : regValue Engine.reset r = 0#32 := by
  cases r with
  | key k | din k | dout k => simp [regValue, Engine.reset]
  | rk w => exact rkWord_replicate_zero w
  | ctrl | cmd | status | keylen | len | src | dst | blkcnt | reserved => decide

/-- Settles O50: the registers by `regValue_reset`, the internal fields and IRQ as the reset state gives them. -/
theorem resetValues : Obligations.ResetValues :=
  ⟨regValue_reset, rfl, rfl, rfl, rfl, rfl, rfl, rfl, rfl, rfl, rfl, rfl⟩

end Sys2Proof.Machine
end

section
/-! Proofs of the statements of 30_encoding.md: decoding of the command words, the expansions of the pseudo-instructions. -/

namespace Sys2Proof

/-! ## The fields of a command word (rule R80) -/

theorem cmdOp_toNat (v : Word) : (cmdOp v).toNat = v.toNat % 16 := by simp [cmdOp]

theorem cmdRsvd_eq_zero_iff (v : Word) : cmdRsvd v = 0#28 ↔ v.toNat < 16 := by
  have hr : (cmdRsvd v).toNat = v.toNat / 16 := by
    rw [cmdRsvd, BitVec.extractLsb'_toNat, Nat.shiftRight_eq_div_pow]
    omega
  rw [← BitVec.toNat_inj, hr, BitVec.toNat_ofNat]
  omega

/-- R83: both fields of a word are legal exactly when the word is one of 0 to 5. -/
theorem CommandWord.wf_iff (v : Word) : CommandWord.wf v = true ↔ v.toNat ≤ 5 := by
  have hr : CommandWord.rsvdZero v = true ↔ v.toNat < 16 := beq_iff_eq.trans (cmdRsvd_eq_zero_iff v)
  have ho : CommandWord.opDefined v = true ↔ v.toNat % 16 ≤ 5 := by
    rw [← cmdOp_toNat]
    exact decide_eq_true_iff
  rw [CommandWord.wf, Bool.and_eq_true, hr, ho]
  omega

/-! ## Decoding (rules R81 to R83) -/

theorem decode_encode (i : Instr) : decode (encode i) = .command i := by cases i <;> rfl

/-- R82: the words of the opcode map are 0 to 5. -/
theorem encode_surj_of_le {v : Word} (h : v.toNat ≤ 5) : ∃ i, v = encode i := by
  obtain ⟨n, hn, rfl⟩ : ∃ n, n ≤ 5 ∧ v = BitVec.ofNat 32 n := ⟨v.toNat, h, by simp⟩
  interval_cases n
  exacts [⟨.nop, rfl⟩, ⟨.expandKey, rfl⟩, ⟨.encryptBlock, rfl⟩, ⟨.ecbEncrypt, rfl⟩, ⟨.encrypt, rfl⟩, ⟨.clear, rfl⟩]

theorem decode_of_ge {v : Word} (h : 16 ≤ v.toNat) : decode v = .reservedBits :=
  if_pos (mt (cmdRsvd_eq_zero_iff v).1 (Nat.not_lt.2 h))

theorem decode_of_lt {v : Word} (h : v.toNat < 16) : decode v = decodeOp (cmdOp v) :=
  if_neg (not_not.2 ((cmdRsvd_eq_zero_iff v).2 h))

theorem decodeOp_of_gt {op : BitVec 4} (h : 5 < op.toNat) : decodeOp op = .undefinedOp := by
  unfold decodeOp
  split
  case h_7 => rfl
  all_goals omega

/-- R81: what decoding answers, on each of the three ranges of words. -/
theorem decode_cases (v : Word) :
    (v.toNat ≤ 5 ∧ ∃ i, v = encode i ∧ decode v = .command i) ∨
    (5 < v.toNat ∧ v.toNat < 16 ∧ decode v = .undefinedOp) ∨
    (16 ≤ v.toNat ∧ decode v = .reservedBits) := by
  rcases Nat.lt_or_ge 5 v.toNat with hlow | hlow
  · rcases Nat.lt_or_ge v.toNat 16 with hhigh | hhigh
    · have hop : 5 < (cmdOp v).toNat := by rwa [cmdOp_toNat, Nat.mod_eq_of_lt hhigh]
      exact .inr (.inl ⟨hlow, hhigh, (decode_of_lt hhigh).trans (decodeOp_of_gt hop)⟩)
    · exact .inr (.inr ⟨hhigh, decode_of_ge hhigh⟩)
  · obtain ⟨i, rfl⟩ := encode_surj_of_le hlow
    exact .inl ⟨hlow, i, rfl, decode_encode i⟩

theorem decode_eq_command_iff (v : Word) (i : Instr) : decode v = .command i ↔ v = encode i := by
  refine ⟨fun h => ?_, fun h => h ▸ decode_encode i⟩
  obtain ⟨-, j, hv, hd⟩ | ⟨-, -, hd⟩ | ⟨-, hd⟩ := decode_cases v
  · rwa [← Decoded.command.inj (hd.symm.trans h)]
  · cases hd.symm.trans h
  · cases hd.symm.trans h

theorem decode_eq_reservedBits_iff (v : Word) : decode v = .reservedBits ↔ 16 ≤ v.toNat := by
  obtain ⟨hlow, i, -, hd⟩ | ⟨-, hhigh, hd⟩ | ⟨hhigh, hd⟩ := decode_cases v
  · exact iff_of_false (by simp [hd]) (by omega)
  · exact iff_of_false (by simp [hd]) (by omega)
  · exact iff_of_true hd hhigh

theorem decode_eq_undefinedOp_iff (v : Word) : decode v = .undefinedOp ↔ 5 < v.toNat ∧ v.toNat < 16 := by
  obtain ⟨hlow, i, -, hd⟩ | ⟨hlow, hhigh, hd⟩ | ⟨hhigh, hd⟩ := decode_cases v
  · exact iff_of_false (by simp [hd]) (by omega)
  · exact iff_of_true hd ⟨hlow, hhigh⟩
  · exact iff_of_false (by simp [hd]) (by omega)

end Sys2Proof

namespace Sys2Proof.Machine

/-! ## The opcode that acceptance stores (rules R81, R160) -/

theorem opOfWord_eq_cmd_iff (v : Word) (i : Instr) : opOfWord v = .cmd i ↔ v = encode i := by
  rw [← decode_eq_command_iff, opOfWord]
  cases decode v <;> simp

theorem opOfWord_eq_illegal_iff (v : Word) : opOfWord v = .illegal ↔ 5 < v.toNat := by
  obtain ⟨hlow, i, -, hd⟩ | ⟨hlow, -, hd⟩ | ⟨hhigh, hd⟩ := decode_cases v
  · exact iff_of_false (by simp [opOfWord, hd]) (by omega)
  · exact iff_of_true (by simp [opOfWord, hd]) hlow
  · exact iff_of_true (by simp [opOfWord, hd]) (by omega)

/-- Settles O3: `decode_cases` gives the decoder's answers, and acceptance stores `opOfWord`. -/
theorem decodeMatchesTheOpcodeMap : Obligations.DecodeMatchesTheOpcodeMap :=
  ⟨⟨rfl, rfl, rfl, rfl, rfl, rfl⟩, decode_eq_command_iff, fun _ => opOfWord_eq_cmd_iff, fun _ => opOfWord_eq_illegal_iff,
    decode_eq_reservedBits_iff, decode_eq_undefinedOp_iff, CommandWord.wf_iff⟩

/-! ## The pseudo-instructions (rule R88) -/

/-- R13: word k of a byte list. -/
def wordAt (b : List Byte) (k : Nat) : Word :=
  leWord (b.getD (4 * k) 0#8) (b.getD (4 * k + 1) 0#8) (b.getD (4 * k + 2) 0#8) (b.getD (4 * k + 3) 0#8)

/-- R13: a byte list of n words packs into its words, in order. -/
theorem leWords_eq_map_wordAt {n : Nat} {b : List Byte} (h : b.length = 4 * n) :
    leWords b = (List.range n).map (wordAt b) := by
  induction n generalizing b with
  | zero => rw [List.length_eq_zero_iff.1 h]; rfl
  | succ n ih =>
    match b, h with
    | b0 :: b1 :: b2 :: b3 :: rest, h =>
      have hrest : rest.length = 4 * n := by simp only [List.length_cons] at h; omega
      rw [leWords, ih hrest, List.range_succ_eq_map, List.map_cons, List.map_map]
      rfl

/-- Consecutive writes: word k goes to offset `off + 4 * k`. -/
theorem regWs_map_range (off n : Nat) (f : Nat → Word) :
    regWs off ((List.range n).map f) = (List.range n).map fun k => .write 32 (off + 4 * k) (f k) := by
  induction n generalizing off f with
  | zero => rfl
  | succ n ih =>
    have hoff : ∀ k, off + 4 * (k + 1) = off + 4 + 4 * k := by omega
    rw [List.range_succ_eq_map, List.map_cons, List.map_map, regWs, ih, List.map_cons, List.map_map]
    simp only [Function.comp_def, Nat.succ_eq_add_one, hoff]
    rfl

/-- R88: the writes of a byte list of n words. -/
theorem regWs_leWords (off : Nat) {n : Nat} {b : List Byte} (h : b.length = 4 * n) :
    regWs off (leWords b) = (List.range n).map fun k => .write 32 (off + 4 * k) (wordAt b k) := by
  rw [leWords_eq_map_wordAt h, regWs_map_range]

/-- R88: SETKEY writes the length, then the key's words. -/
theorem pseudoSetKey_eq {n : Nat} {key : List Byte} (h : key.length = 4 * n) :
    pseudoSetKey key =
      .write 32 0x00C (BitVec.ofNat 32 (4 * n)) :: (List.range n).map fun k => .write 32 (0x020 + 4 * k) (wordAt key k) := by
  rw [pseudoSetKey, regWs_leWords 0x020 h, h]
  rfl

/-- Settles O55: SETKEY and SETBLOCK pack their bytes by `regWs_leWords`; the other expansions are their definitions. -/
theorem pseudoInstructionsExpand : Obligations.PseudoInstructionsExpand :=
  ⟨fun _ => rfl, fun _ _ => rfl, rfl, fun _ h => pseudoSetKey_eq (n := 4) h, fun _ h => pseudoSetKey_eq (n := 8) h,
    fun _ h => regWs_leWords 0x040 (n := 4) h, fun _ _ _ => rfl⟩

end Sys2Proof.Machine
end

section
/-! Proofs of the statements of 40_sbox_gf28.md: the products with a constant, the S-box. -/

namespace Sys2Proof.Machine

/-! ## The constant select (rules R103 to R107) -/

@[simp] theorem gmulC_zero (a : Byte) : gmulC a 0#2 = 0#8 := rfl
@[simp] theorem gmulC_one (a : Byte) : gmulC a 1#2 = a := rfl
@[simp] theorem gmulC_two (a : Byte) : gmulC a 2#2 = xtime a := rfl
@[simp] theorem gmulC_three (a : Byte) : gmulC a 3#2 = mul3 a := rfl

/-- R107: the select has four values. -/
theorem select_cases (c : BitVec 2) : c = 0#2 ∨ c = 1#2 ∨ c = 2#2 ∨ c = 3#2 := by revert c; decide

/-- Settles O23: the four cases of the select, with `xtime` and `mul3` written out. -/
theorem constantSelectProducts : Obligations.ConstantSelectProducts :=
  fun a => ⟨gmulC_zero a, gmulC_one a, gmulC_two a, gmulC_three a⟩

/-- R110 (a): each of the four products is linear. -/
theorem gmulC_xor (c : BitVec 2) (a b : Byte) : gmulC (a ^^^ b) c = gmulC a c ^^^ gmulC b c := by
  rcases select_cases c with rfl | rfl | rfl | rfl
  · exact BitVec.xor_zero.symm
  · rfl
  · exact xtime_xor a b
  · exact mul3_xor a b

/-! ## Doubling as a product of polynomials (rule R110 (c), (d)) -/

/-- R104: 0x1B is odd, so bit 0 of the doubled byte is the bit that the shift moved out. -/
theorem xtime_getLsbD_zero (a : Byte) : (xtime a).getLsbD 0 = a.getLsbD 7 := by
  cases h : a.getLsbD 7 <;> simp_all [xtime]

theorem timesX_getLsbD_eight (a : Byte) : (timesX a).getLsbD 8 = a.getLsbD 7 := by
  simp [timesX]

theorem timesX_toNat (a : Byte) : (timesX a).toNat = 2 * a.toNat := by
  have hlt := a.isLt
  rw [timesX, BitVec.toNat_shiftLeft, BitVec.toNat_setWidth, Nat.shiftLeft_eq]
  omega

/-- R110: the product with x is the shifted byte, with the bit moved out as the coefficient of x^8. -/
theorem timesX_eq (a : Byte) : timesX a = (a <<< 1).setWidth 9 ^^^ (if a.getLsbD 7 then BitVec.twoPow 9 8 else 0#9) := by
  apply BitVec.eq_of_getLsbD_eq
  intro i hi
  rcases Nat.lt_succ_iff_lt_or_eq.1 hi with h8 | rfl
  · have hpred : i - 1 < 9 := by omega
    cases a.getLsbD 7 <;> simp [timesX, -BitVec.getLsbD_eq_getElem, BitVec.getLsbD_twoPow, h8, hi, hpred, h8.ne']
  · cases h : a.getLsbD 7 <;> simp_all [timesX]

/-- R110 (d): the doubled byte is the product with x, less the polynomial where the product has degree 8. -/
theorem xtime_setWidth (a : Byte) :
    (xtime a).setWidth 9 = timesX a ^^^ (if (timesX a).getLsbD 8 then 0x11B#9 else 0#9) := by
  rw [timesX_getLsbD_eight, timesX_eq, xtime]
  cases a.getLsbD 7
  · simp
  · rw [if_pos rfl, if_pos rfl, if_pos rfl, BitVec.setWidth_xor, BitVec.xor_assoc]
    rfl

/-- R110 (c): only 0 doubles to 0: bit 0 of the result says that nothing was taken off, so the product 2 * a is itself 0. -/
theorem xtime_eq_zero {a : Byte} (h : xtime a = 0#8) : a = 0#8 := by
  have htop : a.getLsbD 7 = false := by rw [← xtime_getLsbD_zero, h]; rfl
  have hprod : timesX a = 0#9 := by
    have hlaw := xtime_setWidth a
    rw [h, timesX_getLsbD_eight, htop] at hlaw
    simpa using hlaw.symm
  have hnat : 2 * a.toNat = 0 := by rw [← timesX_toNat, hprod]; rfl
  exact BitVec.eq_of_toNat_eq (by simpa using hnat)

/-- R110 (c): a linear map that sends only 0 to 0 is one to one. -/
theorem xtime_injective : Function.Injective xtime := by
  intro a b h
  have hdiff : xtime (a ^^^ b) = 0#8 := by rw [xtime_xor, h, BitVec.xor_self]
  exact BitVec.xor_eq_zero_iff.1 (xtime_eq_zero hdiff)

/-- R110 (d): doubling is the remainder of the product; taking the polynomial off leaves nothing at x^8. -/
theorem xtime_eq_mod11B (a : Byte) : xtime a = mod11B (timesX a) := by
  have hrem : mod11B (timesX a) = ((xtime a).setWidth 9).setWidth 8 := by
    rw [xtime_setWidth, mod11B]
    cases (timesX a).getLsbD 8 <;> simp
  rw [hrem, BitVec.setWidth_setWidth_of_le _ (by decide), BitVec.setWidth_eq]

/-! ## The general product (rule R109) -/

/-- R109: the bits of 0 add nothing. -/
theorem gmulLoop_zero (n : Nat) (a p : Byte) : gmulLoop n a 0#8 p = p := by
  induction n generalizing a with
  | zero => rfl
  | succ n ih => exact ih (xtime a)

@[simp] theorem gmul_zero (a : Byte) : gmul a 0#8 = 0#8 := gmulLoop_zero 8 a 0#8

@[simp] theorem gmul_one (a : Byte) : gmul a 1#8 = a :=
  (gmulLoop_zero 7 (xtime a) (0#8 ^^^ a)).trans BitVec.zero_xor

@[simp] theorem gmul_two (a : Byte) : gmul a 2#8 = xtime a :=
  (gmulLoop_zero 6 (xtime (xtime a)) (0#8 ^^^ xtime a)).trans BitVec.zero_xor

@[simp] theorem gmul_three (a : Byte) : gmul a 3#8 = mul3 a := by
  have hloop : gmul a 3#8 = 0#8 ^^^ a ^^^ xtime a := gmulLoop_zero 6 (xtime (xtime a)) (0#8 ^^^ a ^^^ xtime a)
  rw [hloop, BitVec.zero_xor, BitVec.xor_comm, mul3]

/-- R109: the select's products are the general product's. -/
theorem gmulC_eq_gmul (c : BitVec 2) (a : Byte) : gmulC a c = gmul a (c.setWidth 8) := by
  rcases select_cases c with rfl | rfl | rfl | rfl
  · exact (gmul_zero a).symm
  · exact (gmul_one a).symm
  · exact (gmul_two a).symm
  · exact (gmul_three a).symm

/-- Settles O24: linearity case by case of the select, doubling through its 9-bit product, the general product by its loop. -/
theorem constantProductLaws : Obligations.ConstantProductLaws :=
  ⟨gmulC_xor, fun _ => rfl, Finite.injective_iff_bijective.1 xtime_injective, xtime_eq_mod11B, xtime_setWidth, gmulC_eq_gmul⟩

/-! ## The S-box (rules R100 to R102) -/

/-- R102: the affine transform solved for its argument (`sboxAffine_sboxUnaffine`). -/
def sboxUnaffine (y : Byte) : Byte := rotl8 y 1 ^^^ rotl8 y 3 ^^^ rotl8 y 6 ^^^ 0x05#8

theorem sboxAffine_sboxUnaffine : ∀ y : Byte, sboxAffine (sboxUnaffine y) = y := by decide +kernel

/-- R102: a byte whose affine transform is S[a]; `gmul_sboxInverse` says that it is the inverse of a. -/
def sboxInverse (a : Byte) : Byte := sboxUnaffine (sbox a)

theorem sbox_eq_sboxAffine (a : Byte) : sbox a = sboxAffine (sboxInverse a) := (sboxAffine_sboxUnaffine (sbox a)).symm

theorem sboxInverse_zero : sboxInverse 0#8 = 0#8 := by decide

/-- R102: the check of the table over its 255 other inputs. -/
theorem gmul_sboxInverse : ∀ a : Byte, a ≠ 0#8 → gmul a (sboxInverse a) = 1#8 := by decide +kernel

/-- The inverse of the inverse of a is a. -/
theorem sboxInverse_involutive : Function.Involutive sboxInverse := by
  unfold Function.Involutive
  decide +kernel

/-- R102: S[a] determines the inverse of a, and so a. -/
theorem sbox_injective : Function.Injective sbox := by
  intro a b h
  exact sboxInverse_involutive.injective (congrArg sboxUnaffine h)

/-- R100: no byte is its own image. -/
theorem sbox_ne_self : ∀ a : Byte, sbox a ≠ a := by decide +kernel

/-- Settles O22: the inverse is read off the table and checked by the general product; it is an involution, so S is one to one. -/
theorem sboxIsTheAffineInverse : Obligations.SboxIsTheAffineInverse := by
  refine ⟨?_, fun a ha => ⟨sboxInverse a, gmul_sboxInverse a ha, sbox_eq_sboxAffine a⟩, fun _ _ h => sbox_injective h, sbox_ne_self⟩
  rw [sbox_eq_sboxAffine, sboxInverse_zero]

end Sys2Proof.Machine
end

section
/-! Proofs of the statements of 41_key_schedule.md: the next block, the schedules made of blocks, the schedules made of words. -/

namespace Sys2Proof.Machine

/-! ## The next block (rules R121 to R123) -/

/-- R121: the constants that rules R124 to R128 use. -/
theorem rcon_table : (List.range' 1 14).map rcon =
    [0x01#8, 0x02#8, 0x04#8, 0x08#8, 0x10#8, 0x20#8, 0x40#8, 0x80#8, 0x1b#8, 0x36#8, 0x6c#8, 0xd8#8, 0xab#8, 0x4d#8] := by
  decide

/-- Byte k of word j of a block is the block's byte 4j + k. -/
theorem blockWord_getElem (b : Block) (j k : Fin 4) : (blockWord b j)[k.val] = b[4 * j.val + k.val] :=
  match k with
  | 0 | 1 | 2 | 3 => rfl

/-- R122: the XOR of words acts on each byte. -/
theorem xorWord_getElem (a b : KWord) (k : Fin 4) : (xorWord a b)[k.val] = a[k.val] ^^^ b[k.val] :=
  match k with
  | 0 | 1 | 2 | 3 => rfl

/-- Word j of a block made from four words is the j-th of them. -/
theorem blockWord_blockOfKWords (w0 w1 w2 w3 : KWord) (j : Fin 4) :
    blockWord (blockOfKWords w0 w1 w2 w3) j = #v[w0, w1, w2, w3][j.val] := by
  apply Vector.ext
  intro k hk
  have hbounds : k < 8 ∧ k < 12 ∧ 4 + k < 8 ∧ 4 + k < 12 ∧ 8 + k < 12 := by omega
  refine (blockWord_getElem (blockOfKWords w0 w1 w2 w3) j ⟨k, hk⟩).trans ?_
  -- The length stays a sum: the lemma for an appended vector matches no vector of length 16.
  change (w0 ++ w1 ++ w2 ++ w3 : Vector Byte (4 + 4 + 4 + 4))[4 * j.val + k] = _
  simp only [Vector.getElem_append, -Nat.reduceAdd]
  match j with
  | 0 | 1 | 2 | 3 => simp [hk, hbounds]

/-- R123: the first word of the next block takes the core of the last word of the block. -/
theorem blockWord_nextBlock_zero (p : Block) (r : Nat) :
    blockWord (nextBlock p r) 0 = xorWord (blockWord p 0) (keyCore (blockWord p 3) r) :=
  blockWord_blockOfKWords _ _ _ _ 0

/-- R123: each further word of the next block takes the new word before it. -/
theorem blockWord_nextBlock_succ (p : Block) (r : Nat) (j : Fin 3) :
    blockWord (nextBlock p r) j.succ = xorWord (blockWord p j.succ) (blockWord (nextBlock p r) j.castSucc) := by
  rw [nextBlock, blockWord_blockOfKWords, blockWord_blockOfKWords]
  match j with
  | 0 | 1 | 2 => rfl

/-- R123: byte k of the first word of the next block. -/
theorem nextBlock_getElem_first (p : Block) (r : Nat) (k : Fin 4) :
    (nextBlock p r)[k.val] = p[k.val] ^^^ (keyCore (blockWord p 3) r)[k.val] := by
  have hword := congrArg (fun w : KWord => w[k.val]) (blockWord_nextBlock_zero p r)
  simpa only [xorWord_getElem, blockWord_getElem, Fin.val_zero, Nat.mul_zero, Nat.zero_add] using hword

/-- R123: byte k of word j + 1 of the next block. -/
theorem nextBlock_getElem_later (p : Block) (r : Nat) (j : Fin 3) (k : Fin 4) :
    (nextBlock p r)[4 * (j.val + 1) + k.val] = p[4 * (j.val + 1) + k.val] ^^^ (nextBlock p r)[4 * j.val + k.val] := by
  have hword := congrArg (fun w : KWord => w[k.val]) (blockWord_nextBlock_succ p r j)
  simpa only [xorWord_getElem, blockWord_getElem, Fin.val_succ, Fin.val_castSucc] using hword

/-- Settles O25: the first word's bytes by `nextBlock_getElem_first`; a later byte is byte j % 4 of word j / 4 + 1. -/
theorem nextBlockRecurrence : Obligations.NextBlockRecurrence := by
  refine ⟨rcon_table, fun p r => ⟨?_, ?_, ?_, ?_, fun j => ?_⟩⟩
  · rw [BitVec.xor_assoc]
    exact nextBlock_getElem_first p r 0
  · exact (nextBlock_getElem_first p r 1).trans (congrArg (p[1] ^^^ ·) BitVec.xor_zero)
  · exact (nextBlock_getElem_first p r 2).trans (congrArg (p[2] ^^^ ·) BitVec.xor_zero)
  · exact (nextBlock_getElem_first p r 3).trans (congrArg (p[3] ^^^ ·) BitVec.xor_zero)
  · have hj : 4 * (j.val / 4) + j.val % 4 = j.val := Nat.div_add_mod _ _
    have hj' : 4 * (j.val / 4 + 1) + j.val % 4 = j.val + 4 := by omega
    have hbyte := nextBlock_getElem_later p r ⟨j.val / 4, by omega⟩ ⟨j.val % 4, by omega⟩
    simpa only [hj, hj'] using hbyte

/-! ## Schedules made of blocks (rules R124 to R126) -/

/-- R124, R126: the first block of a chain is the block it is made from. -/
theorem roundKey_blockChain_zero (n r : Nat) (p : Block) : roundKey (scheduleOfBlocks (blockChain n r p)) 0 = p := by
  rw [roundKey_scheduleOfBlocks _ 0 (by decide), blockChain_zero]

/-- R124, R126: each further block of a chain that fits the schedule is the next block of the one before. -/
theorem roundKey_blockChain_next {n r : Nat} (p : Block) (hn : n < 15) (hfirst : 1 ≤ r) (hlast : r ≤ n) :
    roundKey (scheduleOfBlocks (blockChain n 1 p)) r =
      nextBlock (roundKey (scheduleOfBlocks (blockChain n 1 p)) (r - 1)) r := by
  obtain ⟨k, rfl⟩ := Nat.exists_eq_add_of_le' hfirst
  rw [Nat.add_sub_cancel, roundKey_scheduleOfBlocks _ _ (by omega), roundKey_scheduleOfBlocks _ _ (by omega),
    blockChain_succ n 1 p k hlast, Nat.add_comm 1 k]

/-- R124: the bytes after the last block of a schedule are 0. -/
theorem scheduleOfBlocks_tail (bs : List Block) {i : Nat} (h : i < 240) (hi : 16 * bs.length ≤ i) :
    (scheduleOfBlocks bs)[i] = 0#8 := by
  have hlength : bs.length ≤ i / 16 := by omega
  rw [scheduleOfBlocks_byte bs h, List.getD_eq_default bs zeroBlock hlength]
  exact Vector.getElem_replicate _

/-- R124: the AES-128 schedule has 11 blocks, 176 bytes. -/
theorem keyExpansion128_tail (key : KeyBytes) {i : Nat} (h : i < 240) (hi : 176 ≤ i) : (keyExpansion128 key)[i] = 0#8 := by
  apply scheduleOfBlocks_tail _ h
  rwa [blockChain_length]

/-- Settles O26: both schedules are chains of next blocks from the key's first 16 bytes. -/
theorem blockRecurrenceSchedules : Obligations.BlockRecurrenceSchedules :=
  ⟨fun _ _ => rfl, fun _ _ => rfl,
    fun key => ⟨roundKey_blockChain_zero 10 1 _, fun _ => roundKey_blockChain_next (keyBlock key) (by decide),
      fun i => keyExpansion128_tail key i.isLt⟩,
    fun key => ⟨roundKey_blockChain_zero 14 1 _, fun _ => roundKey_blockChain_next (keyBlock key) (by decide)⟩⟩

/-! ## Schedules made of words (rules R127, R128) -/

/-- R127, R128: adding words keeps the words that are there. -/
theorem nk8_getD_of_lt (sub : Bool) (is : List Nat) {ws : List KWord} {i : Nat} (h : i < ws.length) :
    (is.foldl (nk8Extend sub) ws).getD i zeroKWord = ws.getD i zeroKWord := by
  induction is generalizing ws with
  | nil => rfl
  | cons j js ih =>
    have hstep : i < (nk8Extend sub ws j).length := by rw [nk8Extend, List.length_append]; omega
    rw [List.foldl_cons, ih hstep]
    exact List.getD_append ws _ zeroKWord i h

/-- R127, R128: the word added last. -/
theorem nk8Extend_getD_length (sub : Bool) (ws : List KWord) (i : Nat) :
    (nk8Extend sub ws i).getD ws.length zeroKWord =
      xorWord (ws.getD (i - 8) zeroKWord) (nk8Temp sub i (ws.getD (i - 1) zeroKWord)) := by
  rw [nk8Extend, List.getD_append_right _ _ _ _ (Nat.le_refl _), Nat.sub_self]
  rfl

/-- R127, R128: in the finished list every added word is made from the words 8 before it and 1 before it, which were there
when it was added. -/
theorem nk8_recurrence (sub : Bool) (n : Nat) {ws : List KWord} {i : Nat} (h8 : 8 ≤ ws.length) (hlow : ws.length ≤ i)
    (hhigh : i < ws.length + n) :
    ((List.range' ws.length n).foldl (nk8Extend sub) ws).getD i zeroKWord =
      xorWord (((List.range' ws.length n).foldl (nk8Extend sub) ws).getD (i - 8) zeroKWord)
        (nk8Temp sub i (((List.range' ws.length n).foldl (nk8Extend sub) ws).getD (i - 1) zeroKWord)) := by
  induction n generalizing ws with
  | zero => omega
  | succ n ih =>
    have hlength : (nk8Extend sub ws ws.length).length = ws.length + 1 := by rw [nk8Extend, List.length_append]; rfl
    rcases Nat.eq_or_lt_of_le hlow with rfl | hlater
    · rw [nk8_getD_of_lt sub _ (by omega : ws.length - 8 < ws.length), nk8_getD_of_lt sub _ (by omega : ws.length - 1 < ws.length),
        List.range'_succ, List.foldl_cons, nk8_getD_of_lt sub _ (by omega), nk8Extend_getD_length]
    · rw [List.range'_succ, List.foldl_cons, ← hlength]
      exact ih (by omega) (by omega) (by omega)

/-- R127, R128: words 0 to 7 are the key. -/
theorem nk8Words_getD_key (sub : Bool) (key : KeyBytes) (i : Fin 8) :
    (nk8Words sub key).getD i.val zeroKWord = keyWord key i := by
  have hkey : keyWords key = List.ofFn (keyWord key) := rfl
  rw [nk8Words, nk8_getD_of_lt sub _ i.isLt, hkey, List.getD_eq_getElem _ _ (by simp)]
  exact List.getElem_ofFn _

/-- R127, R128: words 8 to 59. -/
theorem nk8Words_recurrence (sub : Bool) (key : KeyBytes) {i : Nat} (hlow : 8 ≤ i) (hhigh : i < 60) :
    (nk8Words sub key).getD i zeroKWord =
      xorWord ((nk8Words sub key).getD (i - 8) zeroKWord) (nk8Temp sub i ((nk8Words sub key).getD (i - 1) zeroKWord)) :=
  nk8_recurrence sub 52 (ws := keyWords key) (Nat.le_refl 8) hlow hhigh

/-- R125: the two expansions made of words differ in the S-box-only branch, which FIPS197 has. -/
theorem keyExpansion256_of_ne {mode : KsMode} (key : KeyBytes) (h : mode ≠ .srcBlock16) :
    keyExpansion256 mode key = scheduleOfKWords (nk8Words (decide (mode = .fips197)) key) := by
  cases mode with
  | srcBlock16 => exact absurd rfl h
  | srcNk8NoSub => rfl
  | fips197 => rfl

/-- R127, R128: the cases of the word t, with the mode in place of the flag. -/
theorem nk8Temp_mode (mode : KsMode) (i : Nat) (w : KWord) :
    nk8Temp (decide (mode = .fips197)) i w =
      if i % 8 = 0 then xorWord (subWord (rotWord w)) #v[rcon (i / 8), 0#8, 0#8, 0#8]
      else if mode = .fips197 ∧ i % 8 = 4 then subWord w else w := by
  simp only [nk8Temp, keyCore, decide_eq_true_eq]

/-- Settles O27: the words of the schedule are those of `nk8Words`, whose recurrence is `nk8Words_recurrence`. -/
theorem wordRecurrenceSchedules : Obligations.WordRecurrenceSchedules := by
  intro key mode hmode
  refine ⟨rfl, fun i => ?_, fun i hlow hhigh => ?_⟩
  · rw [keyExpansion256_of_ne key hmode, rksWord_scheduleOfKWords _ _ (by omega), nk8Words_getD_key]
  · rw [keyExpansion256_of_ne key hmode, rksWord_scheduleOfKWords _ i hhigh, rksWord_scheduleOfKWords _ (i - 8) (by omega),
      rksWord_scheduleOfKWords _ (i - 1) (by omega), nk8Words_recurrence _ key hlow hhigh, nk8Temp_mode]

end Sys2Proof.Machine
end

section
/-! Proofs of the statements of 42_round_pipeline.md: the four round operations, the rounds of the block transform. -/

namespace Sys2Proof.Machine

/-! ## The round operations byte by byte (rules R140 to R144) -/

/-- R140: two States with the same byte at every row r and column c are equal. -/
theorem block_ext_of_row_column {s t : Block} (h : ∀ r c : Fin 4, s[4 * c.val + r.val] = t[4 * c.val + r.val]) : s = t := by
  apply Vector.ext
  intro k hk
  have hindex : 4 * (k / 4) + k % 4 = k := Nat.div_add_mod k 4
  have hbyte := h ⟨k % 4, by omega⟩ ⟨k / 4, by omega⟩
  simpa only [hindex] using hbyte

/-- R141: SubBytes on byte k. -/
@[simp] theorem subBytes_getElem (s : Block) {k : Nat} (hk : k < 16) : (subBytes s)[k] = sbox s[k] :=
  Vector.getElem_map sbox hk

/-- R142: row r, column c of the State after ShiftRows. -/
theorem shiftRows_getElem (s : Block) (r c : Fin 4) :
    (shiftRows s)[4 * c.val + r.val] = s[4 * ((c.val + r.val) % 4) + r.val]'(by omega) := by
  have hcolumn : (4 * c.val + r.val) / 4 = c.val := by omega
  have hrow : (4 * c.val + r.val) % 4 = r.val := by omega
  rw [shiftRows, Vector.getElem_ofFn]
  exact getElem_index s (by rw [hcolumn, hrow]) (by omega)

/-- R142: n ShiftRows rotate row r by n * r positions. -/
theorem shiftRows_iterate_getElem (n : Nat) (s : Block) (r c : Fin 4) :
    (shiftRows^[n] s)[4 * c.val + r.val] = s[4 * ((c.val + n * r.val) % 4) + r.val]'(by omega) := by
  induction n generalizing s with
  | zero => exact getElem_index s (by omega) (by omega)
  | succ n ih =>
    have hturn : ((c.val + n * r.val) % 4 + r.val) % 4 = (c.val + (n + 1) * r.val) % 4 := by
      rw [Nat.mod_add_mod, Nat.succ_mul, Nat.add_assoc]
    rw [Function.iterate_succ_apply, ih, shiftRows_getElem s r ⟨(c.val + n * r.val) % 4, by omega⟩]
    exact getElem_index s (congrArg (4 * · + r.val) hturn) (by omega)

/-- R149 (a): the fourth ShiftRows completes a turn of every row. -/
theorem shiftRows_iterate_four (s : Block) : shiftRows^[4] s = s := by
  refine block_ext_of_row_column fun r c => ?_
  rw [shiftRows_iterate_getElem]
  exact getElem_index s (by omega) (by omega)

/-- R143: column c of the State after MixColumns is the mixed column c. -/
theorem blockWord_mixColumns (s : Block) (c : Fin 4) : blockWord (mixColumns s) c = mixedColumn s c :=
  (blockWord_blockOfKWords _ _ _ _ c).trans <|
    match c with
    | 0 | 1 | 2 | 3 => rfl

theorem mixColumns_getElem (s : Block) (c r : Fin 4) : (mixColumns s)[4 * c.val + r.val] = (mixedColumn s c)[r.val] := by
  rw [← blockWord_getElem, blockWord_mixColumns]

/-- R144: AddRoundKey on byte k. -/
theorem addRoundKey_getElem (s : Block) (rks : Schedule) (r : Nat) {k : Nat} (hk : k < 16) :
    (addRoundKey s rks r)[k] = s[k] ^^^ rksByte rks (16 * r + k) := by
  rw [addRoundKey, Vector.getElem_zipWith, roundKey, Vector.getElem_ofFn]

/-- R144: a round key added twice cancels. -/
theorem addRoundKey_addRoundKey (s : Block) (rks : Schedule) (r : Nat) : addRoundKey (addRoundKey s rks r) rks r = s := by
  apply Vector.ext
  intro k hk
  rw [addRoundKey_getElem, addRoundKey_getElem, BitVec.xor_assoc, BitVec.xor_self, BitVec.xor_zero]

/-- Settles O29: each byte by `shiftRows_getElem`; four rotations of row r move it by 4 * r positions. -/
theorem shiftRowsRotatesRows : Obligations.ShiftRowsRotatesRows :=
  ⟨shiftRows_getElem, shiftRows_iterate_four⟩

/-- Settles O30: the mixed column's bytes are the rows of the product, with `gmul_two` and `gmul_three` for its constants. -/
theorem mixColumnsIsTheMatrixProduct : Obligations.MixColumnsIsTheMatrixProduct := by
  intro s c
  simp only [gmul_two, gmul_three]
  exact ⟨mixColumns_getElem s c 0, mixColumns_getElem s c 1, mixColumns_getElem s c 2, mixColumns_getElem s c 3⟩

/-- Settles O32: round keys 0 to 14 lie within the schedule, so `rksByte` is its byte there. -/
theorem laneWiseRoundOperations : Obligations.LaneWiseRoundOperations := by
  refine ⟨fun s k => subBytes_getElem s k.isLt, fun s rks r k => ?_, addRoundKey_addRoundKey⟩
  rw [← rksByte_lt rks (by omega)]
  exact addRoundKey_getElem s rks r.val k.isLt

/-! ## The rounds of the block transform (rules R145, R146) -/

/-- R145: the State after the initial AddRoundKey and the middle rounds 1 to r. -/
def roundState (pt : Block) (rks : Schedule) : Nat → Block
  | 0 => addRoundKey pt rks 0
  | r + 1 => middleRound rks (roundState pt rks r) (r + 1)

/-- R146: the transform's loop over rounds 1 to n computes the State after them. -/
theorem foldl_middleRound_eq_roundState (pt : Block) (rks : Schedule) (n : Nat) :
    (List.range' 1 n).foldl (middleRound rks) (addRoundKey pt rks 0) = roundState pt rks n := by
  induction n with
  | zero => rfl
  | succ n ih => rw [List.range'_1_concat, List.foldl_concat, ih, Nat.add_comm, roundState]

/-- R146: the transform is the final round after the middle rounds. -/
theorem cipher_eq_finalRound_roundState (pt : Block) (rks : Schedule) (rounds : Nat) :
    cipher pt rks rounds = finalRound rks (roundState pt rks (rounds - 1)) rounds := by
  rw [cipher, foldl_middleRound_eq_roundState]

/-- R145: each middle round takes the State after the round before it. -/
theorem roundState_eq_middleRound (pt : Block) (rks : Schedule) {r : Nat} (hr : 1 ≤ r) :
    roundState pt rks r = middleRound rks (roundState pt rks (r - 1)) r := by
  obtain ⟨k, rfl⟩ := Nat.exists_eq_add_of_le' hr
  rfl

/-- Settles O33: `roundState` is the sequence; its equations hold for every number of rounds. -/
theorem cipherRoundSequence : Obligations.CipherRoundSequence :=
  fun pt rks rounds _ =>
    ⟨roundState pt rks, rfl, fun _ hr _ => roundState_eq_middleRound pt rks hr, cipher_eq_finalRound_roundState pt rks rounds⟩

end Sys2Proof.Machine
end

section
/-! Proofs of the statements of 43_ecb_controller.md: the commands that complete in their START step, and the illegal command. -/

namespace Sys2Proof.Machine

/-- R160: acceptance of a word that is no buffer command keeps BLKCNT. -/
theorem accept_eng_of_not_buffer (s : State) {v : Word} {op : Op} (hop : opOfWord v = op) (hbuf : isBufferCmd op = false) :
    (s.accept v).eng =
      { s.eng with op := op, phase := .start, busy := true, done := false, errcode := .ok, blk := 0 } := by
  rw [State.accept_eng, hop]
  simp [Engine.accept, hbuf]

/-! ## NOP (rule R170) -/

/-- Settles O35: NOP's START step is a completion with OK, and its acceptance is that of a command without a buffer. -/
theorem nopCompletes : Obligations.NopCompletes := by
  refine ⟨fun s hphase => exec_start hphase, fun s => ?_, fun t h => ?_⟩
  · exact accept_eng_of_not_buffer s ((opOfWord_eq_cmd_iff _ .nop).2 rfl) rfl
  · have ht : startOf .nop (State.reset.accept 0x00000000#32) = t := Host.Outcome.next.inj ((exec_start rfl).symm.trans h)
    rw [← ht]
    rfl

/-! ## ENCRYPT_BLOCK (rule R172) -/

/-- R172: with a schedule held, DIN is encrypted and the command completes. -/
theorem exec_encryptBlock_of_keyvalid {s : State} (hphase : s.eng.phase = .start) (hkey : s.eng.keyvalid = true) :
    exec .encryptBlock s = .next (s.setEng (s.eng.encryptDin.finish .ok)) := by
  rw [exec_start hphase]
  simp [startOf, startEncryptBlock, hkey]

/-- R172, R203: with no schedule held, the one check of ENCRYPT_BLOCK fails. -/
theorem exec_encryptBlock_of_not_keyvalid {s : State} (hphase : s.eng.phase = .start) (hkey : s.eng.keyvalid = false) :
    exec .encryptBlock s = .next (s.finish .missingInput) := by
  rw [exec_start hphase]
  simp [startOf, startEncryptBlock, hkey]

/-- Settles O37: the START step by its one check, KEYVALID; `Engine.encryptDin` writes DOUT and the working State only. -/
theorem encryptBlockCompletes : Obligations.EncryptBlockCompletes :=
  fun _ hphase =>
    ⟨fun hkey => ⟨_, exec_encryptBlock_of_keyvalid hphase hkey, rfl⟩, exec_encryptBlock_of_not_keyvalid hphase⟩

/-! ## CLEAR (rule R175) -/

/-- Settles O44: CLEAR's START step is `Engine.clearContext`, then a completion with OK. -/
theorem clearReleasesTheContext : Obligations.ClearReleasesTheContext := fun _ hphase => exec_start hphase

/-! ## The illegal command (rule R176) -/

theorem execIllegal_start {s : State} (hphase : s.eng.phase = .start) :
    execIllegal s = .next (s.finish .illegalCommand) := by
  rw [execIllegal_eq_runPhase, runPhase_start hphase]
  rfl

/-- R83, R176: the ENGINE's step after the acceptance of an illegal word is its completion. -/
theorem step_accept_of_illegal {s : State} {v : Word} {ts : List Agent} (hv : 5 < v.toNat) (h : s.turns = .engine :: ts) :
    step (s.accept v) = .next (((s.accept v).setTurns ts).finish .illegalCommand) := by
  have hop : ((s.accept v).setTurns ts).eng.op = .illegal := (opOfWord_eq_illegal_iff v).2 hv
  rw [step_engine (s := s.accept v) h, engineStep_illegal hop]
  exact execIllegal_start rfl

/-- Settles O45: both steps are the completion with ILLEGAL_COMMAND; the acceptance before the second keeps BLKCNT. -/
theorem illegalCommandCompletes : Obligations.IllegalCommandCompletes := by
  refine ⟨fun _ => execIllegal_start, fun s v ts hv h => ⟨_, step_accept_of_illegal hv h, rfl, ?_, rfl, rfl, rfl, rfl⟩⟩
  have heng := accept_eng_of_not_buffer s ((opOfWord_eq_illegal_iff v).2 hv) rfl
  rw [State.finish_eng, Engine.finish_blkcnt, State.setTurns_eng, heng]

end Sys2Proof.Machine
end

section
/-! Proofs of the statements of 60_exceptions.md: a register access that is not 32-bit and aligned. -/

namespace Sys2Proof.Machine

/-! ## The bus -/

/-- R205: an unsupported write inside the window reaches no register. -/
theorem busWrite_of_not_accessOk {s : State} {bits off : Nat} (v : Word) (ho : off < 1024) (h : accessOk bits off = false) :
    s.busWrite bits (s.cfg.base + off) v = .fault .hostAccess := by
  simp [State.busWrite, windowOffset_inside _ ho, h]

/-- R205: an unsupported read inside the window gives no value. -/
theorem busRead_of_not_accessOk {s : State} {bits off : Nat} (ho : off < 1024) (h : accessOk bits off = false) :
    s.busRead bits (s.cfg.base + off) = none := by
  simp [State.busRead, windowOffset_inside _ ho, h]

/-! ## The host's statements -/

/-- R87, R205: a `W` whose access is unsupported. -/
theorem hostWrite_of_not_accessOk {s : State} {bits off : Nat} (v : Word) (ho : off < 1024) (h : accessOk bits off = false) :
    hostWrite bits off v s = .fault .hostAccess := by
  rw [hostWrite, busWrite_of_not_accessOk v ho h]
  rfl

/-- R87, R205: an `R` whose access is unsupported. -/
theorem hostRead_of_not_accessOk {s : State} {bits off : Nat} (x : Nat) (ho : off < 1024) (h : accessOk bits off = false) :
    hostRead bits off x s = .fault .hostAccess := by
  rw [hostRead, busRead_of_not_accessOk ho h]

/-! ## The step -/

/-- R20, R87: the step of a host that moves next and has a statement is that statement's. -/
theorem step_host_stmt {s : State} {ts : List Agent} {st : HostStmt} (h : s.turns = .host :: ts)
    (hc : s.host.current = some st) : step s = hostStmtStep st (s.setTurns ts) :=
  (step_host h).trans (hostStep_current (s := s.setTurns ts) hc)

/-- Settles O17: the access fails `accessOk`, so the statement's bus access, a write or a read, is the fault. -/
theorem unsupportedAccessFaults : Obligations.UnsupportedAccessFaults := by
  intro s ts bits off x v hturn ho hbad
  have hok : accessOk bits off = false := accessOk_false hbad
  refine ⟨fun hwrite => ?_, fun hread => ?_⟩
  · exact (step_host_stmt hturn hwrite).trans (hostWrite_of_not_accessOk v ho hok)
  · exact (step_host_stmt hturn hread).trans (hostRead_of_not_accessOk x ho hok)

end Sys2Proof.Machine
end

section
/-! What a step of the machine can do, one inversion lemma per agent: the START steps, the HOST's statements; and the invariant,
which every step keeps. -/

namespace Sys2Proof.Machine

/-! ## The ENGINE's steps (rules R161, R162) -/

/-- R162, R170 to R175: what a START step does: a completion with nothing else changed, a transfer for which the checks have passed,
or the work of a command that completes at once. -/
theorem startOf_cases (i : Instr) (s : State) :
    (∃ c, c ≠ .busError ∧ startOf i s = s.finish c) ∨
    (startOf i s = s.goTo .expand ∧ keylenOk s.eng = true ∧ (i = .expandKey ∨ i = .encrypt ∧ lenOk s.eng = true)) ∨
    (startOf i s = s.goTo .block ∧ i = .ecbEncrypt ∧ s.eng.keyvalid = true ∧ lenOk s.eng = true) ∨
    (startOf i s = s.setEng (s.eng.encryptDin.finish .ok) ∧ i = .encryptBlock) ∨
    (startOf i s = s.setEng (s.eng.clearContext.finish .ok) ∧ i = .clear) := by
  cases i with
  | nop => exact .inl ⟨.ok, by decide, rfl⟩
  | expandKey =>
    cases hk : keylenOk s.eng
    · exact .inl ⟨.invalidKeyLength, by decide, by simp [startOf, startExpandKey, hk]⟩
    · exact .inr (.inl ⟨by simp [startOf, startExpandKey, hk], rfl, .inl rfl⟩)
  | encryptBlock =>
    cases hv : s.eng.keyvalid
    · exact .inl ⟨.missingInput, by decide, by simp [startOf, startEncryptBlock, hv]⟩
    · exact .inr (.inr (.inr (.inl ⟨by simp [startOf, startEncryptBlock, hv], rfl⟩)))
  | ecbEncrypt =>
    cases hv : s.eng.keyvalid
    · exact .inl ⟨.missingInput, by decide, by simp [startOf, startEcbEncrypt, hv]⟩
    cases hl : lenOk s.eng
    · exact .inl ⟨.invalidBufferLength, by decide, by simp [startOf, startEcbEncrypt, hv, hl]⟩
    · exact .inr (.inr (.inl ⟨by simp [startOf, startEcbEncrypt, hv, hl], rfl, rfl, rfl⟩))
  | encrypt =>
    cases hk : keylenOk s.eng
    · exact .inl ⟨.invalidKeyLength, by decide, by simp [startOf, startEncrypt, hk]⟩
    cases hl : lenOk s.eng
    · exact .inl ⟨.invalidBufferLength, by decide, by simp [startOf, startEncrypt, hk, hl]⟩
    · exact .inr (.inl ⟨by simp [startOf, startEncrypt, hk, hl], rfl, .inr ⟨rfl, rfl⟩⟩)
  | clear => exact .inr (.inr (.inr (.inr ⟨rfl, rfl⟩)))

/-! ## The HOST's steps (rules R23, R87) -/

/-- R27, R39: what a supported register write does: a register other than CMD takes it, or an idle engine accepts a command. -/
theorem regWrite_next {s t : State} {r : Reg} {v : Word} (h : s.regWrite r v = .next t) :
    t = s.setEng (s.eng.regWrite r v) ∨ s.eng.busy = false ∧ t = s.accept v := by
  unfold State.regWrite at h
  split at h
  · next hcmd =>
    subst hcmd
    obtain ⟨-, hw⟩ | ⟨-, -, -, hw⟩ | ⟨hb, -, hw⟩ := writeCmd_cases s v <;> rw [hw] at h <;> cases h
    · exact .inl rfl
    · exact .inr ⟨hb, rfl⟩
  · cases h
    exact .inl rfl

/-- R23: what a host write does: nothing outside the window, else a register write. -/
theorem busWrite_next {s t : State} {bits a : Nat} {v : Word} (h : s.busWrite bits a v = .next t) :
    t = s ∨ ∃ r, s.regWrite r v = .next t := by
  unfold State.busWrite at h
  split at h
  · cases h
    exact .inl rfl
  · split at h
    · exact .inr ⟨_, h⟩
    · cases h

/-- R40, R240: a register read releases the claimed ranges only where it shows completion. -/
theorem regRead_owned (s : State) (r : Reg) :
    (s.regRead r).2.owned = s.owned ∨ (s.regRead r).2.owned = observed s.eng s.owned := by
  unfold State.regRead
  split
  · exact .inl rfl
  · split
    · exact .inr rfl
    · exact .inl rfl

/-- R23, R69: what a host read changes of the engine, the memory and the claimed ranges. -/
theorem busRead_some {s t : State} {bits a : Nat} {v : Word} (h : s.busRead bits a = some (v, t)) :
    t.eng = s.eng ∧ t.mem = s.mem ∧ (t.owned = s.owned ∨ t.owned = observed s.eng s.owned) := by
  unfold State.busRead at h
  split at h
  · cases h
    exact ⟨rfl, rfl, .inl rfl⟩
  · next off _ =>
    split at h
    · have ht : t = (s.regRead (regAt off)).2 := (congrArg Prod.snd (Option.some.inj h)).symm
      obtain ⟨heng, hmem, -⟩ := regRead_frame s (regAt off)
      rw [ht]
      exact ⟨heng, hmem, regRead_owned s _⟩
    · cases h

/-- R87: what a HOST step can do to the engine, the memory and the claimed ranges: nothing but a release of ranges on an observed
completion; a write of a register; an acceptance; a write of bytes. -/
theorem hostStep_cases {s t : State} (h : hostStep s = .next t) :
    (t.eng = s.eng ∧ t.mem = s.mem ∧ (t.owned = s.owned ∨ (s.eng.busy = false ∨ s.eng.done = true) ∧ t.owned = [])) ∨
    (∃ r v, t.eng = s.eng.regWrite r v ∧ t.mem = s.mem ∧ t.owned = s.owned) ∨
    (∃ v, s.eng.busy = false ∧ t.eng = s.eng.accept (opOfWord v) ∧ t.mem = s.mem ∧
      t.owned = acceptClaims s.eng (opOfWord v) s.owned) ∨
    (∃ a bs, t.eng = s.eng ∧ t.mem = writeBytes s.mem a bs ∧ t.owned = s.owned) := by
  unfold hostStep at h
  split at h
  · cases h
    exact .inl ⟨rfl, rfl, .inl rfl⟩
  · next st _ =>
    cases st with
    | label l => cases h; exact .inl ⟨rfl, rfl, .inl rfl⟩
    | stop => cases h; exact .inl ⟨rfl, rfl, .inl rfl⟩
    | irq n x =>
      cases h
      refine .inl ⟨rfl, rfl, ?_⟩
      cases hirq : hostIrq s.cfg s.eng n
      · exact .inl (by simp [State.hostBind])
      · obtain ⟨-, -, hdone⟩ := (hostIrq_iff _ _ _).1 hirq
        exact .inr ⟨.inr hdone, by simp [State.hostBind]⟩
    | memRead a n x =>
      simp only [hostStmtStep, hostMemRead] at h
      split at h <;> cases h
      exact .inl ⟨rfl, rfl, .inl rfl⟩
    | memWrite a bs =>
      simp only [hostStmtStep, hostMemWrite] at h
      split at h <;> cases h
      exact .inr (.inr (.inr ⟨a, bs, rfl, rfl, rfl⟩))
    | ifGoto c l =>
      simp only [hostStmtStep, hostIf] at h
      split at h
      · cases h
      · cases h; exact .inl ⟨rfl, rfl, .inl rfl⟩
      · split at h <;> cases h
        exact .inl ⟨rfl, rfl, .inl rfl⟩
    | read bits off x =>
      simp only [hostStmtStep, hostRead] at h
      split at h
      · cases h
      · next v u hu =>
        cases h
        obtain ⟨heng, hmem, howned | howned⟩ := busRead_some hu
        · exact .inl ⟨heng, hmem, .inl howned⟩
        · refine .inl ⟨heng, hmem, ?_⟩
          show u.owned = s.owned ∨ _ ∧ u.owned = []
          rw [howned, observed]
          cases s.eng.busy <;> cases s.eng.done <;> simp
    | write bits off v =>
      simp only [hostStmtStep, hostWrite] at h
      cases hu : s.busWrite bits (s.cfg.base + off) v with
      | fault f => rw [hu] at h; cases h
      | refused f => rw [hu] at h; cases h
      | next u =>
        rw [hu] at h
        cases h
        obtain rfl | ⟨r, hr⟩ := busWrite_next hu
        · exact .inl ⟨rfl, rfl, .inl rfl⟩
        · obtain rfl | ⟨hb, rfl⟩ := regWrite_next hr
          · exact .inr (.inl ⟨r, v, rfl, rfl, rfl⟩)
          · exact .inr (.inr (.inl ⟨v, hb, rfl, rfl, rfl⟩))

end Sys2Proof.Machine
end

section
/-! Proofs of the statements about the invariant: it holds after RESET, and every step of every agent keeps it. -/

namespace Sys2Proof.Machine

/-! ## The engine's invariant (rules R28, R41, R42, R124) -/

/-- R41: in IDLE the invariant asks for no more than BUSY = 0, the range of the block index and the schedule's form. -/
theorem Engine.inv_of_idle {e : Engine} (hphase : e.phase = .idle) (hbusy : e.busy = false) (hblk : e.blkInv) (hkey : e.keyInv) :
    e.Inv :=
  ⟨⟨by simp [hphase, hbusy], by simp [hbusy]⟩, by simp [Engine.phaseInv, hphase], hblk, hkey⟩

/-- R28, R41: outside IDLE a command runs, with DONE and ERRCODE 0. -/
theorem Engine.flagsInv_running {e : Engine} (h : e.flagsInv) (hphase : e.phase ≠ .idle) :
    e.busy = true ∧ e.done = false ∧ e.errcode = .ok :=
  have hbusy := h.1.2 hphase
  ⟨hbusy, h.2 hbusy⟩

theorem Engine.flagsInv_of_running {e : Engine} (hphase : e.phase ≠ .idle)
    (h : e.busy = true ∧ e.done = false ∧ e.errcode = .ok) : e.flagsInv :=
  ⟨iff_of_true h.1 hphase, fun _ => h.2⟩

/-- R41: an engine that runs no command is in IDLE. -/
theorem Engine.flagsInv_idle {e : Engine} (h : e.flagsInv) (hbusy : e.busy = false) : e.phase = .idle := by
  by_contra hphase
  exact absurd (h.1.2 hphase) (by simp [hbusy])

/-- R163: completion meets the invariant whatever ran before it. -/
theorem Engine.finish_inv {e : Engine} (c : ErrCode) (hblk : e.blkInv) (hkey : e.keyInv) : (e.finish c).Inv :=
  Engine.inv_of_idle rfl rfl hblk hkey

theorem Engine.accept_inv {e : Engine} (op : Op) (hkey : e.keyInv) : (e.accept op).Inv :=
  ⟨Engine.flagsInv_of_running Phase.noConfusion ⟨rfl, rfl, rfl⟩, ⟨rfl, fun hop => if_pos hop⟩, Nat.zero_le _, hkey⟩

theorem Engine.clearContext_keyInv (e : Engine) : e.clearContext.keyInv := ⟨rfl, rfl⟩

theorem Engine.reset_inv : Engine.reset.Inv := Engine.inv_of_idle rfl rfl (Nat.zero_le _) ⟨rfl, rfl⟩

/-- R124, R166: the schedule that EXPAND writes has 10 rounds and a zero tail, or 14 rounds. -/
theorem Engine.expansion_keyInv (p : Platform) (e : Engine) :
    (e.loadSchedule (e.expansion p).1 (e.expansion p).2).keyInv := by
  by_cases h : e.keylen = 16#8
  · rw [expansion_16 p h]
    exact .inr ⟨rfl, fun i hi => keyExpansion128_tail (keyBytes e) i.isLt hi⟩
  · rw [expansion_32 p h]
    exact .inl rfl

/-! ## The ENGINE's steps -/

/-- R162: a START step keeps the engine's invariant. -/
theorem startOf_eng_inv {i : Instr} {s : State} (h : s.eng.Inv) (hphase : s.eng.phase = .start) (hop : s.eng.op = .cmd i) :
    (startOf i s).eng.Inv := by
  obtain ⟨hflags, hstart, hblk, hkey⟩ := h
  have hrun := Engine.flagsInv_running hflags (by simp [hphase])
  rw [Engine.phaseInv, hphase] at hstart
  obtain ⟨hblk0, hcnt0⟩ := hstart
  obtain ⟨c, -, hf⟩ | ⟨hf, hkeylen, hcmd⟩ | ⟨hf, rfl, hvalid, hlen⟩ | ⟨hf, -⟩ | ⟨hf, -⟩ := startOf_cases i s <;> rw [hf]
  · exact Engine.finish_inv c hblk hkey
  · refine ⟨Engine.flagsInv_of_running Phase.noConfusion hrun, ⟨hblk0, hcnt0, hkeylen, ?_⟩, hblk, hkey⟩
    obtain rfl | ⟨rfl, hl⟩ := hcmd
    · exact .inl hop
    · exact .inr ⟨hop, hl⟩
  · have hbuf : isBufferCmd s.eng.op = true := by rw [hop]; rfl
    refine ⟨Engine.flagsInv_of_running Phase.noConfusion hrun, ⟨hbuf, hlen, hvalid, ?_, ?_⟩, hblk, hkey⟩
    · exact hblk0 ▸ (lenOk_blocks hlen).2.1
    · exact (hcnt0 hbuf).trans (congrArg (BitVec.ofNat 32) hblk0.symm)
  · exact Engine.finish_inv .ok hblk hkey
  · exact Engine.finish_inv .ok hblk (Engine.clearContext_keyInv _)

/-- R166: so does the EXPAND step: ENCRYPT goes on to a block its length has. -/
theorem expandStep_eng_inv {s : State} (h : s.eng.Inv) (hphase : s.eng.phase = .expand) : s.expandStep.eng.Inv := by
  obtain ⟨hflags, hexpand, hblk, -⟩ := h
  have hrun := Engine.flagsInv_running hflags (by simp [hphase])
  rw [Engine.phaseInv, hphase] at hexpand
  obtain ⟨-, hcnt0, -, hop⟩ := hexpand
  obtain ⟨-, hf⟩ | ⟨hne, hf⟩ := expandStep_cases s <;> rw [hf]
  · exact Engine.finish_inv .ok hblk (Engine.expansion_keyInv s.cfg s.eng)
  · obtain ⟨henc, hlen⟩ := hop.resolve_left hne
    have hbuf : isBufferCmd s.eng.op = true := by rw [henc]; rfl
    exact ⟨Engine.flagsInv_of_running Phase.noConfusion hrun, ⟨hbuf, hlen, rfl, (lenOk_blocks hlen).2.1, hcnt0 hbuf⟩,
      Nat.zero_le _, Engine.expansion_keyInv s.cfg s.eng⟩

/-- R167: and the BLOCK step, which goes on only to a block the buffer has. -/
theorem blockStep_eng_inv {s : State} (h : s.eng.Inv) (hphase : s.eng.phase = .block) : s.blockStep.eng.Inv := by
  obtain ⟨hflags, hblock, hblk, hkey⟩ := h
  have hrun := Engine.flagsInv_running hflags (by simp [hphase])
  rw [Engine.phaseInv, hphase] at hblock
  obtain ⟨hbuf, hlen, hvalid, hlt, -⟩ := hblock
  have hmax := (lenOk_blocks hlen).2.2
  have hblk' : s.eng.blk + 1 ≤ 0x0FFFFFFF := by omega
  obtain ⟨-, hf⟩ | ⟨-, -, hf⟩ | ⟨-, -, hf⟩ := blockStep_cases s <;> rw [hf]
  · exact Engine.finish_inv .busError hblk hkey
  · exact Engine.finish_inv .busError hblk hkey
  · rw [State.setEng_eng]
    obtain ⟨-, hd⟩ | ⟨hne, hd⟩ := blockDone_cases s.eng (s.eng.transform (blockAt s.mem (blockAddr s.eng.src s.eng.blk))) <;>
      rw [hd]
    · exact Engine.finish_inv .ok hblk' hkey
    · have hphase' : s.eng.phase ≠ .idle := by simp [hphase]
      refine ⟨Engine.flagsInv_of_running hphase' hrun, ?_, hblk', hkey⟩
      have hlt' : s.eng.blk + 1 < blockCount s.eng := by omega
      simp only [Engine.phaseInv, Engine.countBlock_phase, Engine.setWork_phase, hphase]
      exact ⟨hbuf, hlen, hvalid, hlt', rfl⟩

/-- R161: every step of a command keeps the engine's invariant. -/
theorem runPhase_eng_inv {s : State} {f : State → State} (h : s.eng.Inv) (hf : s.eng.phase = .start → (f s).eng.Inv) :
    (s.runPhase f).eng.Inv := by
  cases hphase : s.eng.phase with
  | idle => rwa [runPhase_idle hphase]
  | start => rw [runPhase_start hphase]; exact hf hphase
  | expand => rw [runPhase_expand hphase]; exact expandStep_eng_inv h hphase
  | block => rw [runPhase_block hphase]; exact blockStep_eng_inv h hphase

/-- R85, R163: what no step of a command writes: CTRL, KEYLEN, LEN, SRC, DST and the opcode. -/
def Engine.SameOperands (e e' : Engine) : Prop :=
  e'.ie = e.ie ∧ e'.keylen = e.keylen ∧ e'.len = e.len ∧ e'.src = e.src ∧ e'.dst = e.dst ∧ e'.op = e.op

theorem Engine.sameOperands_refl (e : Engine) : e.SameOperands e := ⟨rfl, rfl, rfl, rfl, rfl, rfl⟩

theorem startOf_sameOperands (i : Instr) (s : State) : s.eng.SameOperands (startOf i s).eng := by
  obtain ⟨c, -, hf⟩ | ⟨hf, -⟩ | ⟨hf, -⟩ | ⟨hf, -⟩ | ⟨hf, -⟩ := startOf_cases i s <;> rw [hf] <;>
    exact s.eng.sameOperands_refl

theorem expandStep_sameOperands (s : State) : s.eng.SameOperands s.expandStep.eng := by
  obtain ⟨-, hf⟩ | ⟨-, hf⟩ := expandStep_cases s <;> rw [hf] <;> exact s.eng.sameOperands_refl

theorem blockStep_sameOperands (s : State) : s.eng.SameOperands s.blockStep.eng := by
  obtain ⟨-, hf⟩ | ⟨-, -, hf⟩ | ⟨-, -, hf⟩ := blockStep_cases s <;> rw [hf]
  · exact s.eng.sameOperands_refl
  · exact s.eng.sameOperands_refl
  · rw [State.setEng_eng]
    obtain ⟨-, hd⟩ | ⟨-, hd⟩ := blockDone_cases s.eng (s.eng.transform (blockAt s.mem (blockAddr s.eng.src s.eng.blk))) <;>
      rw [hd] <;> exact s.eng.sameOperands_refl

theorem runPhase_sameOperands {s : State} {f : State → State} (hf : s.eng.SameOperands (f s).eng) :
    s.eng.SameOperands (s.runPhase f).eng := by
  cases hphase : s.eng.phase with
  | idle => rw [runPhase_idle hphase]; exact s.eng.sameOperands_refl
  | start => rwa [runPhase_start hphase]
  | expand => rw [runPhase_expand hphase]; exact expandStep_sameOperands s
  | block => rw [runPhase_block hphase]; exact blockStep_sameOperands s

/-! ## The machine's invariant (rules R61, R241) -/

/-- The invariant speaks of the engine, the memory and the claimed ranges only. -/
theorem State.inv_congr {s t : State} (h : s.Inv) (heng : t.eng = s.eng) (hmem : t.mem = s.mem) (howned : t.owned = s.owned) :
    t.Inv := by
  simpa only [State.Inv, State.claimInv, heng, hmem, howned] using h

/-- R241: in IDLE no range is asked for. -/
theorem State.inv_of_idle {s : State} (hphase : s.eng.phase = .idle) (heng : s.eng.Inv) (hmem : s.mem.wf = true) : s.Inv :=
  ⟨heng, hmem, fun h => absurd hphase h⟩

/-- R241: the running command's ranges stay claimed while its operands do. -/
theorem State.claimInv_of_sameOperands {s t : State} (h : s.claimInv) (hphase : s.eng.phase ≠ .idle)
    (hops : s.eng.SameOperands t.eng) (howned : t.owned = s.owned) : t.claimInv := by
  obtain ⟨-, -, hlen, hsrc, hdst, hop⟩ := hops
  intro _ hbuf
  rw [hlen, hsrc, hdst, howned]
  exact h hphase (hop ▸ hbuf)

/-- R161: an ENGINE step keeps the invariant. -/
theorem engineStep_inv {s t : State} (h : s.Inv) (hstep : engineStep s = .next t) : t.Inv := by
  obtain ⟨heng, hmem, hclaim⟩ := h
  obtain ⟨u, hu, -, -, -, howned⟩ := engineStep_next s
  obtain rfl : u = t := Host.Outcome.next.inj (hu.symm.trans hstep)
  have hinv : ∀ f : State → State, u = s.runPhase f → (s.eng.phase = .start → (f s).eng.Inv) → (f s).mem = s.mem →
      s.eng.SameOperands (f s).eng → u.Inv := by
    intro f hf hstart hstartMem hops
    by_cases hphase : s.eng.phase = .idle
    · rw [hf, runPhase_idle hphase]
      exact ⟨heng, hmem, hclaim⟩
    · refine ⟨?_, ?_, State.claimInv_of_sameOperands hclaim hphase ?_ howned⟩ <;> rw [hf]
      · exact runPhase_eng_inv heng hstart
      · exact runPhase_mem_wf hmem hstartMem
      · exact runPhase_sameOperands hops
  cases hop : s.eng.op with
  | cmd i =>
    rw [engineStep_cmd hop, exec_eq_runPhase] at hu
    exact hinv _ (Host.Outcome.next.inj hu).symm (fun hphase => startOf_eng_inv heng hphase hop) (startOf_mem i s)
      (startOf_sameOperands i s)
  | illegal =>
    rw [engineStep_illegal hop, execIllegal_eq_runPhase] at hu
    obtain ⟨-, -, hblk, hkey⟩ := heng
    exact hinv _ (Host.Outcome.next.inj hu).symm (fun _ => Engine.finish_inv .illegalCommand hblk hkey) rfl
      s.eng.sameOperands_refl

/-! ## The HOST's steps -/

/-- R24, R69: what a register write leaves of the engine's internal state. -/
theorem Engine.regWrite_internal (e : Engine) (r : Reg) (v : Word) :
    (e.regWrite r v).rks = e.rks ∧ (e.regWrite r v).phase = e.phase ∧ (e.regWrite r v).op = e.op ∧
    (e.regWrite r v).blk = e.blk ∧ (e.regWrite r v).busy = e.busy ∧ (e.regWrite r v).keyvalid = e.keyvalid ∧
    (e.regWrite r v).errcode = e.errcode ∧ (e.regWrite r v).rounds = e.rounds ∧
    (r ≠ .status → (e.regWrite r v).done = e.done) := by
  cases r with
  | ctrl | cmd | blkcnt | dout k | rk w | reserved => exact ⟨rfl, rfl, rfl, rfl, rfl, rfl, rfl, rfl, fun _ => rfl⟩
  | status =>
    rw [Engine.regWrite_status]
    exact ⟨rfl, rfl, rfl, rfl, rfl, rfl, rfl, rfl, fun h => absurd rfl h⟩
  | keylen | len | src | dst | key k | din k =>
    simp only [Engine.regWrite]
    split <;> exact ⟨rfl, rfl, rfl, rfl, rfl, rfl, rfl, rfl, fun _ => rfl⟩

/-- R28, R39: while a command runs, a register write changes at most IE and DONE, and can only clear DONE. -/
theorem Engine.regWrite_running {e : Engine} (r : Reg) (v : Word) (hbusy : e.busy = true) (hdone : e.done = false) :
    ∃ ie, e.regWrite r v = { e with ie := ie } := by
  by_cases hctrl : r = .ctrl
  · exact ⟨v.getLsbD 0, by rw [hctrl]; rfl⟩
  by_cases hstatus : r = .status
  · refine ⟨e.ie, ?_⟩
    rw [hstatus, Engine.regWrite_status, hdone, Bool.false_and, ← hdone]
  · exact ⟨e.ie, Engine.regWrite_of_busy v hbusy hctrl hstatus⟩

/-- R27, R39: a register write keeps the invariant: idle, it writes no field the invariant names; busy, only IE. -/
theorem regWrite_inv {s t : State} {r : Reg} {v : Word} (h : s.Inv) (heng : t.eng = s.eng.regWrite r v) (hmem : t.mem = s.mem)
    (howned : t.owned = s.owned) : t.Inv := by
  obtain ⟨⟨hflags, hphase, hblk, hkey⟩, hwf, hclaim⟩ := h
  cases hbusy : s.eng.busy with
  | false =>
    have hidle := Engine.flagsInv_idle hflags hbusy
    obtain ⟨hrks', hphase', -, hblk', hbusy', hvalid', -, hrounds', -⟩ := s.eng.regWrite_internal r v
    rw [← heng] at hrks' hphase' hblk' hbusy' hvalid' hrounds'
    refine State.inv_of_idle (hphase'.trans hidle) ?_ (hmem ▸ hwf)
    refine Engine.inv_of_idle (hphase'.trans hidle) (hbusy'.trans hbusy) ?_ ?_
    · rwa [Engine.blkInv, hblk']
    · rwa [Engine.keyInv, hvalid', hrounds', hrks']
  | true =>
    obtain ⟨ie, hie⟩ := Engine.regWrite_running r v hbusy (hflags.2 hbusy).1
    rw [hie] at heng
    refine ⟨?_, hmem ▸ hwf, ?_⟩
    · rw [heng]
      exact ⟨hflags, hphase, hblk, hkey⟩
    · rw [State.claimInv, heng, howned]
      exact hclaim

/-- R160, R241: acceptance meets the invariant and claims the ranges of a buffer command. -/
theorem accept_inv {s t : State} {op : Op} (h : s.Inv) (heng : t.eng = s.eng.accept op) (hmem : t.mem = s.mem)
    (howned : t.owned = acceptClaims s.eng op s.owned) : t.Inv := by
  obtain ⟨⟨-, -, -, hkey⟩, hwf, -⟩ := h
  refine ⟨heng ▸ Engine.accept_inv op hkey, hmem ▸ hwf, ?_⟩
  rw [State.claimInv, heng, howned]
  intro _ (hbuf : isBufferCmd op = true)
  rw [acceptClaims, if_pos hbuf]
  exact List.mem_cons_self

/-- R87: a HOST step keeps the invariant; ranges are released only with DONE = 1 or BUSY = 0, so when no command runs. -/
theorem hostStep_inv {s t : State} (h : s.Inv) (hstep : hostStep s = .next t) : t.Inv := by
  obtain ⟨heng, hmem, howned | ⟨hobs, -⟩⟩ | ⟨r, v, heng, hmem, howned⟩ | ⟨v, -, heng, hmem, howned⟩ |
    ⟨a, bs, heng, hmem, howned⟩ := hostStep_cases hstep
  · exact State.inv_congr h heng hmem howned
  · obtain ⟨hinv, hwf, -⟩ := h
    have hidle : s.eng.phase = .idle := by
      by_contra hphase
      obtain ⟨hbusy, hdone, -⟩ := Engine.flagsInv_running hinv.1 hphase
      simp [hbusy, hdone] at hobs
    exact State.inv_of_idle (heng ▸ hidle) (heng ▸ hinv) (hmem ▸ hwf)
  · exact regWrite_inv h heng hmem howned
  · exact accept_inv h heng hmem howned
  · obtain ⟨hinv, hwf, hclaim⟩ := h
    refine ⟨heng ▸ hinv, ?_, ?_⟩
    · rw [hmem]
      exact writeBytes_wf a bs hwf
    · rwa [State.claimInv, heng, howned]

/-! ## RESET -/

/-- R231: RESET keeps the memory in canonical form. -/
theorem resetMem_wf {s : State} (h : s.mem.wf = true) : (resetMem s).wf = true := by
  unfold resetMem
  split
  · split
    · exact h
    · exact writeSelected_wf _ _ _ h
  · exact h

theorem resetEvent_inv {s : State} (h : s.mem.wf = true) : (resetEvent s).Inv :=
  State.inv_of_idle rfl Engine.reset_inv (resetMem_wf h)

/-- Settles O57: after RESET the engine is in IDLE with no schedule, and the memory lists nothing. -/
theorem resetMeetsTheInvariant : Obligations.ResetMeetsTheInvariant :=
  State.inv_of_idle rfl Engine.reset_inv State.reset_mem_wf

/-- Settles O58: by `step_cases` a step is one of an agent, and each agent's step keeps the invariant. -/
theorem stepKeepsTheInvariant : Obligations.StepKeepsTheInvariant := by
  intro s t h hstep
  obtain ⟨u, heng, hmem, -, -, howned, hu⟩ := step_cases s
  have hinv : u.Inv := State.inv_congr h heng hmem howned
  rw [hstep] at hu
  obtain hu | hhost | hengine | hreset := hu
  · cases hu
    exact hinv
  · exact hostStep_inv hinv hhost.symm
  · exact engineStep_inv hinv hengine.symm
  · cases hreset
    exact resetEvent_inv hinv.2.1

end Sys2Proof.Machine
end

section
/-! Proofs of the statements of 10_state.md: the register map, STATUS, what register writes and reads do, the bytes of the
register words. -/

namespace Sys2Proof.Machine

/-! ## The register map (rules R24, R25) -/

/-- R25: the indices between DOUT and RK, and past RK, name no register. -/
theorem regAtIndex_reserved {w : Nat} (h : 24 ≤ w ∧ w < 64 ∨ 124 ≤ w) : regAtIndex w = .reserved := by
  unfold regAtIndex
  rw [if_neg (by omega), dif_neg (by omega), dif_neg (by omega), dif_neg (by omega), dif_neg (by omega)]

theorem regAt_key (k : Fin 8) : regAt (0x020 + 4 * k.val) = .key k := by revert k; decide

theorem regAt_din (k : Fin 4) : regAt (0x040 + 4 * k.val) = .din k := by revert k; decide

theorem regAt_dout (k : Fin 4) : regAt (0x050 + 4 * k.val) = .dout k := by revert k; decide

theorem regAt_rk (w : Fin 60) : regAt (0x100 + 4 * w.val) = .rk w := by revert w; decide

/-- Settles O7: the named registers by evaluation, the reserved runs by their word indices. -/
theorem registerMapOffsets : Obligations.RegisterMapOffsets :=
  ⟨rfl, rfl, rfl, rfl, rfl, rfl, rfl, rfl, regAt_key, regAt_din, regAt_dout, regAt_rk,
    fun _ hoff _ => regAtIndex_reserved (.inl (by omega)), fun _ hoff _ => regAtIndex_reserved (.inr (by omega))⟩

/-- Settles O11: `Engine.regWrite` returns the engine as it is for these registers. -/
theorem readOnlyAndReservedIgnoreWrites : Obligations.ReadOnlyAndReservedIgnoreWrites :=
  fun _ _ => ⟨rfl, fun _ => rfl, fun _ => rfl, rfl, rfl, rfl⟩

/-! ## STATUS (rule R28) -/

theorem bit_getLsbD (b : Bool) (i : Nat) : (bit b).getLsbD i = (decide (i = 0) && b) := by
  cases b
  · simp [bit]
  · simp [bit, BitVec.getLsbD_one]

/-- R200: an error number has four bits. -/
theorem errNumber_getLsbD_of_ge (c : ErrCode) {i : Nat} (h : 4 ≤ i) : (errNumber c).getLsbD i = false := by
  have hlt : (errNumber c).toNat < 2 ^ 4 := by cases c <;> decide
  exact Nat.testBit_lt_two_pow (hlt.trans_le (Nat.pow_le_pow_right (by decide) h))

/-- R28: bit i of STATUS, by fields. -/
theorem statusWord_getLsbD (e : Engine) {i : Nat} (hi : i < 32) :
    (statusWord e).getLsbD i =
      (decide (i = 0) && e.busy || decide (i = 1) && e.done || decide (i = 2) && e.keyvalid ||
        decide (4 ≤ i) && (errNumber e.errcode).getLsbD (i - 4) || decide (8 ≤ i) && e.rounds.getLsbD (i - 8)) := by
  simp only [statusWord, BitVec.getLsbD_or, BitVec.getLsbD_shiftLeft, bit_getLsbD, BitVec.getLsbD_setWidth, hi]
  grind

/-- R28: bits 7:4 of STATUS are the error number. -/
theorem statusWord_errcode (e : Engine) : (statusWord e).extractLsb' 4 4 = (errNumber e.errcode).setWidth 4 := by
  ext i hi
  simp only [BitVec.getElem_extractLsb', BitVec.getElem_setWidth, statusWord_getLsbD e (show 4 + i < 32 by omega)]
  simp [show ¬8 ≤ 4 + i by omega, show ¬4 + i = 1 by omega, show ¬4 + i = 2 by omega]

/-- R28: above bit 7, STATUS holds the bits of ROUNDS only. -/
theorem statusWord_getLsbD_high (e : Engine) {i : Nat} (hi : 8 + i < 32) : (statusWord e).getLsbD (8 + i) = e.rounds.getLsbD i := by
  rw [statusWord_getLsbD e hi, errNumber_getLsbD_of_ge _ (by omega)]
  simp [show ¬8 + i = 1 by omega, show ¬8 + i = 2 by omega]

theorem statusWord_rounds (e : Engine) : (statusWord e).extractLsb' 8 8 = e.rounds := by
  ext i hi
  rw [BitVec.getElem_extractLsb', statusWord_getLsbD_high e (by omega), BitVec.getLsbD_eq_getElem]

theorem statusWord_reserved (e : Engine) : (statusWord e).extractLsb' 16 16 = 0#16 := by
  ext i hi
  have hround : e.rounds.getLsbD (8 + i) = false := BitVec.getLsbD_of_ge _ _ (by omega)
  rw [BitVec.getElem_extractLsb', show 16 + i = 8 + (8 + i) by omega, statusWord_getLsbD_high e (by omega), hround]
  simp

/-- R23, R24: the HOST step that writes a register other than CMD. -/
theorem step_host_write_register {s : State} {ts : List Agent} {off : Nat} {v : Word} (h : s.turns = .host :: ts)
    (hc : s.host.current = some (.write 32 off v)) (ho : off < 1024) (h4 : off % 4 = 0) (hcmd : off ≠ 0x004) :
    step s = .next ((s.setTurns ts).setEng (s.eng.regWrite (regAt off) v)).hostAdvance := by
  rw [step_host_write h hc ho h4, State.regWrite, if_neg (mt (regAt_eq_cmd ho h4).1 hcmd)]
  rfl

/-- Settles O8: the fields by their bits in `statusWord_getLsbD`, the write by `Engine.regWrite_status`. -/
theorem statusRegister : Obligations.StatusRegister := by
  refine ⟨fun e => ⟨?_, ?_, ?_, ?_, ?_, statusWord_rounds e, statusWord_reserved e⟩, fun s ts v h hc => ?_⟩
  · rw [statusWord_getLsbD e (by decide)]
    simp
  · rw [statusWord_getLsbD e (by decide)]
    simp
  · rw [statusWord_getLsbD e (by decide)]
    simp
  · rw [statusWord_getLsbD e (by decide)]
    simp
  · rw [statusWord_errcode]
    cases e.errcode <;> rfl
  · exact ⟨_, step_host_write_register h hc (by decide) rfl (by decide), Engine.regWrite_status s.eng v, rfl⟩

/-! ## Register writes (rules R24 to R32, R36, R37) -/

/-- R26: CTRL holds one bit. -/
theorem bit_getLsbD_zero (v : Word) : bit (v.getLsbD 0) = v &&& 0x00000001#32 := by
  ext i hi
  rw [← BitVec.getLsbD_eq_getElem, bit_getLsbD]
  cases i <;> simp

/-- R29: KEYLEN holds eight bits. -/
theorem setWidth_extractLsb'_byte (v : Word) : (v.extractLsb' 0 8).setWidth 32 = v &&& 0x000000FF#32 := by
  apply BitVec.eq_of_toNat_eq
  have hmask : v.toNat &&& 255 = v.toNat % 256 := Nat.and_two_pow_sub_one_eq_mod v.toNat 8
  rw [BitVec.toNat_and, BitVec.toNat_setWidth, BitVec.extractLsb'_toNat, Nat.shiftRight_zero]
  exact (Nat.mod_eq_of_lt (by omega)).trans hmask.symm

/-- Settles O9: the step by `step_host_write_register`; an idle engine stores what is written, in the bits the register has. -/
theorem writtenRegisterReadsBack : Obligations.WrittenRegisterReadsBack := by
  refine ⟨fun s ts off v h hc ho h4 hcmd => step_host_write_register h hc ho h4 hcmd, fun _ v => bit_getLsbD_zero v,
    fun e v hbusy => ?_⟩
  simp [Engine.regWrite, hbusy, regValue, setWidth_extractLsb'_byte]

section
variable (e : Engine) (r : Reg)

theorem regValue_setIe (b : Bool) (h : r ≠ .ctrl) : regValue (e.setIe b) r = regValue e r := by
  cases r with
  | ctrl => exact absurd rfl h
  | _ => rfl

theorem regValue_ack (h : r ≠ .status) : regValue e.ack r = regValue e r := by
  cases r with
  | status => exact absurd rfl h
  | _ => rfl

theorem regValue_setKeylen (v : BitVec 8) (h : r ≠ .keylen) : regValue (e.setKeylen v) r = regValue e r := by
  cases r with
  | keylen => exact absurd rfl h
  | _ => rfl

theorem regValue_setLen (v : Word) (h : r ≠ .len) : regValue (e.setLen v) r = regValue e r := by
  cases r with
  | len => exact absurd rfl h
  | _ => rfl

theorem regValue_setSrc (v : Word) (h : r ≠ .src) : regValue (e.setSrc v) r = regValue e r := by
  cases r with
  | src => exact absurd rfl h
  | _ => rfl

theorem regValue_setDst (v : Word) (h : r ≠ .dst) : regValue (e.setDst v) r = regValue e r := by
  cases r with
  | dst => exact absurd rfl h
  | _ => rfl

theorem regValue_setKey (k : Fin 8) (v : Word) (h : r ≠ .key k) : regValue (e.setKey k v) r = regValue e r := by
  cases r with
  | key k' => exact Vector.getElem_set_ne k.isLt k'.isLt fun hk => h (congrArg Reg.key (Fin.ext hk.symm))
  | _ => rfl

theorem regValue_setDin (k : Fin 4) (v : Word) (h : r ≠ .din k) : regValue (e.setDin k v) r = regValue e r := by
  cases r with
  | din k' => exact Vector.getElem_set_ne k.isLt k'.isLt fun hk => h (congrArg Reg.din (Fin.ext hk.symm))
  | _ => rfl

end

/-- R69: a register write changes what no other register reads. -/
theorem regValue_regWrite_of_ne (e : Engine) {r r' : Reg} (v : Word) (h : r' ≠ r) :
    regValue (e.regWrite r v) r' = regValue e r' := by
  have hite : ∀ (c : Prop) [Decidable c] (a b : Engine), regValue a r' = regValue e r' → regValue b r' = regValue e r' →
      regValue (if c then a else b) r' = regValue e r' := by
    intro c _ a b ha hb
    split <;> assumption
  cases r with
  | cmd | blkcnt | dout k | rk w | reserved => rfl
  | ctrl => exact regValue_setIe e r' _ h
  | status => exact hite _ _ _ (regValue_ack e r' h) rfl
  | keylen => exact hite _ _ _ rfl (regValue_setKeylen e r' _ h)
  | len => exact hite _ _ _ rfl (regValue_setLen e r' v h)
  | src => exact hite _ _ _ rfl (regValue_setSrc e r' v h)
  | dst => exact hite _ _ _ rfl (regValue_setDst e r' v h)
  | key k => exact hite _ _ _ rfl (regValue_setKey e r' k v h)
  | din k => exact hite _ _ _ rfl (regValue_setDin e r' k v h)

/-- Settles O10: the registers by `regValue_regWrite_of_ne`, the internal state by `Engine.regWrite_internal`. -/
theorem registerWriteFrame : Obligations.RegisterWriteFrame :=
  fun e r v => ⟨fun _ h => regValue_regWrite_of_ne e v h, e.regWrite_internal r v⟩

/-! ## Register reads (rules R40, R69) -/

/-- R40: the free values a read returns are those of DOUT and RK. -/
theorem Reg.freeWhenBusy_iff (r : Reg) : r.freeWhenBusy = true ↔ (∃ k, r = .dout k) ∨ ∃ w, r = .rk w := by
  cases r <;> simp [Reg.freeWhenBusy]

/-- R40: any other read returns the register's value. -/
theorem regRead_value {s : State} {r : Reg} (h : (r.freeWhenBusy && s.eng.busy) = false) : (s.regRead r).1 = regValue s.eng r := by
  rw [State.regRead, h, if_neg Bool.false_ne_true]
  split <;> rfl

/-- Settles O13: `Reg.freeWhenBusy` holds of exactly DOUT and RK. -/
theorem readsWhileBusy : Obligations.ReadsWhileBusy := by
  intro s r hbusy
  rw [← r.freeWhenBusy_iff]
  refine ⟨fun hfree => ?_, fun hfree => regRead_value (by simp [hfree])⟩
  simp [State.regRead, hfree, hbusy]

theorem lookup_bind_same (s : State) (x : Nat) (v : HostVal) : lookup (s.hostBind x v).host.env x = some v := if_pos rfl

/-- Settles O12: the read changes only the model's own fields (`regRead_frame`), and while idle its value is the register's. -/
theorem registerReadHasNoSideEffect : Obligations.RegisterReadHasNoSideEffect := by
  intro s ts off x h hc ho h4
  obtain ⟨heng, hmem, -, hcfg, -⟩ := regRead_frame (s.setTurns ts) (regAt off)
  refine ⟨_, step_host_read h hc ho h4, heng, hmem, hcfg, fun hbusy => ?_⟩
  rw [lookup_bind_same, regRead_value (by simp [hbusy])]
  rfl

/-! ## The bytes of the register words (rule R13) -/

/-- R13: byte j of a packed word is the j-th of its four bytes. -/
theorem byteOfWord_leWord (b : KWord) (j : Fin 4) : byteOfWord (leWord b[0] b[1] b[2] b[3]) j.val = b[j.val] := by
  have hhigh : ∀ (c : Byte) (k : Nat), 8 ≤ k → c.getLsbD k = false := BitVec.getLsbD_of_ge
  ext i hi
  rw [byteOfWord, BitVec.getElem_extractLsb', ← BitVec.getLsbD_eq_getElem]
  simp only [leWord, BitVec.getLsbD_or, BitVec.getLsbD_shiftLeft, BitVec.getLsbD_setWidth]
  match j with
  | 0 | 1 | 2 | 3 => grind

/-- R13: byte 4k + j of unpacked words is byte j of word k. -/
theorem bytesOfWords_getElem {n : Nat} (ws : Vector Word n) (k : Fin n) (j : Fin 4) :
    (bytesOfWords ws)[4 * k.val + j.val] = byteOfWord ws[k] j.val := by
  have hword : (4 * k.val + j.val) / 4 = k.val := by omega
  have hbyte : (4 * k.val + j.val) % 4 = j.val := by omega
  rw [bytesOfWords, Vector.getElem_ofFn]
  simp only [hword, hbyte]
  rfl

/-- R13: byte j of packed word k is byte 4k + j. -/
theorem wordsOfBytes_getElem {n : Nat} (b : Vector Byte (4 * n)) (k : Fin n) (j : Fin 4) :
    byteOfWord (wordsOfBytes b)[k] j.val = b[4 * k.val + j.val] := by
  rw [Fin.getElem_fin, wordsOfBytes, Vector.getElem_ofFn]
  refine (byteOfWord_leWord #v[b[4 * k.val], b[4 * k.val + 1], b[4 * k.val + 2], b[4 * k.val + 3]] j).trans ?_
  match j with
  | 0 | 1 | 2 | 3 => rfl

/-- Settles O14: RK and DOUT hold packed words, KEY and DIN are unpacked. -/
theorem registerWordsHoldTheirBytes : Obligations.RegisterWordsHoldTheirBytes :=
  ⟨fun e w j => wordsOfBytes_getElem (n := 60) e.rks w j, fun e k j => bytesOfWords_getElem e.key k j,
    fun e k j => bytesOfWords_getElem e.din k j, fun _ b k j => wordsOfBytes_getElem (n := 4) b k j⟩

end Sys2Proof.Machine
end

section
/-! Proofs of the statements of 30_encoding.md and of the step: the command words, the command an ENGINE step runs, IDLE. -/

namespace Sys2Proof.Machine

/-! ## Command words (rules R81 to R83) -/

/-- Settles O1: each word by evaluation of the decoder. -/
theorem commandWordsDecode : Obligations.CommandWordsDecode := by
  unfold Obligations.CommandWordsDecode
  decide

theorem encode_toNat_le (i : Instr) : (encode i).toNat ≤ 5 := by cases i <;> decide

/-- Settles O2: `decode_encode`; the words of the opcode map are 0 to 5. -/
theorem decodeOfEncodeIsTheCommand : Obligations.DecodeOfEncodeIsTheCommand :=
  fun i _ => ⟨decode_encode i, (CommandWord.wf_iff _).2 (encode_toNat_le i)⟩

/-! ## The step (rules R160, R161, R220) -/

/-- R20, R161: with no turn named, a host with no step and a command running, the step is the ENGINE's. -/
theorem step_open_engine {s : State} (h : s.turns = []) (hhost : hostEnabled s = false) (hphase : s.eng.phase ≠ .idle) :
    step s = engineStep s := by
  have heng : engineEnabled s = true := bne_iff_ne.2 hphase
  simp [step, turnStep, h, openStep, hhost, heng]

/-- R220: with no turn named and no agent enabled, nothing changes. -/
theorem step_open_none {s : State} (h : s.turns = []) (hhost : hostEnabled s = false) (hphase : s.eng.phase = .idle) :
    step s = .next s := by
  have heng : engineEnabled s = false := by simp [engineEnabled, hphase]
  simp [step, turnStep, h, openStep, hhost, heng]

/-- R81: a table word that decodes to a command has it as its opcode. -/
theorem opOfWord_tableWord {w : Nat} {i : Instr} (h : decodeTableWord 32 w = some i) : opOfWord (tableWord 32 w) = .cmd i := by
  unfold decodeTableWord at h
  unfold opOfWord
  cases hd : decode (tableWord 32 w) <;> simp_all

/-- Settles O4: the ENGINE's turn is consumed, then `engineStep` runs the accepted opcode. -/
theorem stepRunsTheAcceptedCommand : Obligations.StepRunsTheAcceptedCommand := by
  refine ⟨fun s i ts h hop => ?_, fun s i h hhost hphase hop => ?_, fun s ts h hop => ?_, fun s v i hd => ?_, fun s w i hd => ?_⟩
  · exact (step_engine h).trans (engineStep_cmd hop)
  · exact (step_open_engine h hhost hphase).trans (engineStep_cmd hop)
  · exact (step_engine h).trans (engineStep_illegal hop)
  · exact (opOfWord_eq_cmd_iff v i).2 ((decode_eq_command_iff v i).1 hd)
  · exact (step_engine rfl).trans (engineStep_cmd (opOfWord_tableWord hd))

/-- Settles O5: in IDLE `State.runPhase` keeps the state, and no agent is enabled. -/
theorem idleEngineKeepsAllState : Obligations.IdleEngineKeepsAllState := by
  refine ⟨fun s i hphase => ?_, fun s hphase => ?_, fun s => step_open_none⟩
  · rw [exec_eq_runPhase, runPhase_idle hphase]
  · rw [execIllegal_eq_runPhase, runPhase_idle hphase]

end Sys2Proof.Machine
end

section
/-! Proofs of the statements of 41_key_schedule.md and 42_round_pipeline.md: the 16-byte schedules, linearity of MixColumns, and
that the block transform is a bijection. -/

namespace Sys2Proof.Machine

/-! ## The 16-byte schedules (rules R36, R126) -/

/-- R36: the first block of a schedule depends on key bytes 0 to 15 only. -/
theorem keyBlock_congr {key key' : KeyBytes} (h : ∀ i : Fin 32, i.val < 16 → key[i] = key'[i]) : keyBlock key = keyBlock key' := by
  apply Vector.ext
  intro i hi
  rw [keyBlock, keyBlock, Vector.getElem_ofFn, Vector.getElem_ofFn]
  exact h ⟨i, by omega⟩ hi

/-- R124, R126: two chains from one block agree as far as both go. -/
theorem roundKey_blockChain_congr {n m r : Nat} (p : Block) (hn : n < 15) (hm : m < 15) (hrn : r ≤ n) (hrm : r ≤ m) :
    roundKey (scheduleOfBlocks (blockChain n 1 p)) r = roundKey (scheduleOfBlocks (blockChain m 1 p)) r := by
  induction r with
  | zero => rw [roundKey_blockChain_zero, roundKey_blockChain_zero]
  | succ r ih =>
    rw [roundKey_blockChain_next p hn (by omega) hrn, roundKey_blockChain_next p hm (by omega) hrm, Nat.add_sub_cancel,
      ih (by omega) (by omega)]

/-- Settles O28: both schedules are chains from the block of key bytes 0 to 15. -/
theorem sixteenByteSchedulesIgnoreTheRest : Obligations.SixteenByteSchedulesIgnoreTheRest := by
  refine ⟨fun key key' h => ?_, fun key r hr => ?_⟩
  · have hblock := keyBlock_congr h
    exact ⟨congrArg (fun b => scheduleOfBlocks (blockChain 10 1 b)) hblock,
      congrArg (fun b => scheduleOfBlocks (blockChain 14 1 b)) hblock⟩
  · exact roundKey_blockChain_congr (keyBlock key) (by decide) (by decide) (by omega) hr

/-! ## MixColumns (rule R143) -/

/-- R149 (b): a mixed column is linear in the column. -/
theorem mixColumn_xor (a0 a1 a2 a3 b0 b1 b2 b3 : Byte) :
    mixColumn (a0 ^^^ b0) (a1 ^^^ b1) (a2 ^^^ b2) (a3 ^^^ b3) = xorWord (mixColumn a0 a1 a2 a3) (mixColumn b0 b1 b2 b3) := by
  simp only [mixColumn, xorWord, xtime_xor, mul3_xor, Vector.getElem_mk, List.getElem_toArray, List.getElem_cons_zero,
    List.getElem_cons_succ]
  ac_rfl

/-- Settles O31: byte by byte, each in its own column. -/
theorem mixColumnsIsLinear : Obligations.MixColumnsIsLinear := by
  intro a b
  refine block_ext_of_row_column fun r c => ?_
  rw [Vector.getElem_zipWith, mixColumns_getElem, mixColumns_getElem, mixColumns_getElem, ← xorWord_getElem]
  simp only [mixedColumn, Vector.getElem_zipWith, mixColumn_xor]

theorem byte_xor_left_comm (a b c : Byte) : a ^^^ (b ^^^ c) = b ^^^ (a ^^^ c) := by
  rw [← BitVec.xor_assoc, BitVec.xor_comm a b, BitVec.xor_assoc]

theorem byte_xor_cancel_left (a b : Byte) : a ^^^ (a ^^^ b) = b := by
  rw [← BitVec.xor_assoc, BitVec.xor_self, BitVec.zero_xor]

/-- R143: the product of a column with the first row of the matrix, [2, 3, 1, 1]. -/
def mixRow (a b c d : Byte) : Byte := xtime a ^^^ mul3 b ^^^ c ^^^ d

/-- R143: the other rows of the matrix are rotations of its first. -/
theorem mixColumn_eq_mixRow (a b c d : Byte) :
    mixColumn a b c d = #v[mixRow a b c d, mixRow b c d a, mixRow c d a b, mixRow d a b c] := by
  simp only [mixColumn, mixRow]
  ac_rfl

/-- The product of a column with the first row of the matrix's square, [5, 0, 4, 0]. -/
def squareRow (a c : Byte) : Byte := xtime (xtime (a ^^^ c)) ^^^ a

theorem mixRow_mixRow (a b c d : Byte) :
    mixRow (mixRow a b c d) (mixRow b c d a) (mixRow c d a b) (mixRow d a b c) = squareRow a c := by
  simp only [mixRow, squareRow, mul3, xtime_xor]
  simp only [BitVec.xor_assoc, BitVec.xor_comm, byte_xor_left_comm, byte_xor_cancel_left]

/-- The square is its own inverse: it keeps the difference of the two bytes. -/
theorem squareRow_squareRow (a c : Byte) : squareRow (squareRow a c) (squareRow c a) = a := by
  have hdiff : squareRow a c ^^^ squareRow c a = a ^^^ c := by
    simp only [squareRow, BitVec.xor_assoc, BitVec.xor_comm, byte_xor_left_comm, BitVec.xor_self, BitVec.xor_zero]
  rw [squareRow, hdiff]
  exact byte_xor_cancel_left _ a

/-- R143: a column as a word, mixed. -/
def mixWord (w : KWord) : KWord := mixColumn w[0] w[1] w[2] w[3]

theorem mixWord_mixWord (w : KWord) :
    mixWord (mixWord w) = #v[squareRow w[0] w[2], squareRow w[1] w[3], squareRow w[2] w[0], squareRow w[3] w[1]] := by
  simp only [mixWord, mixColumn_eq_mixRow, Vector.getElem_mk, List.getElem_toArray, List.getElem_cons_zero,
    List.getElem_cons_succ, mixRow_mixRow]

/-- R143: the matrix is invertible, since its fourth power is the identity. -/
theorem mixWord_four (w : KWord) : mixWord (mixWord (mixWord (mixWord w))) = w := by
  rw [mixWord_mixWord, mixWord_mixWord]
  simp only [Vector.getElem_mk, List.getElem_toArray, List.getElem_cons_zero, List.getElem_cons_succ, squareRow_squareRow]
  apply Vector.ext
  intro k hk
  match k with
  | 0 | 1 | 2 | 3 => rfl

theorem mixWord_injective : Function.Injective mixWord :=
  Function.LeftInverse.injective (g := fun w => mixWord (mixWord (mixWord w))) mixWord_four

/-! ## The block transform (rule R146) -/

theorem subBytes_injective : Function.Injective subBytes := by
  intro s t h
  apply Vector.ext
  intro k hk
  apply sbox_injective
  rw [← subBytes_getElem s hk, ← subBytes_getElem t hk, h]

theorem shiftRows_injective : Function.Injective shiftRows :=
  Function.LeftInverse.injective (g := shiftRows^[3]) shiftRows_iterate_four

theorem mixColumns_injective : Function.Injective mixColumns := by
  intro s t h
  refine block_ext_of_row_column fun r c => ?_
  have hcolumn : mixWord (blockWord s c) = mixWord (blockWord t c) := by
    change mixedColumn s c = mixedColumn t c
    rw [← blockWord_mixColumns, ← blockWord_mixColumns, h]
  rw [← blockWord_getElem, ← blockWord_getElem, mixWord_injective hcolumn]

theorem addRoundKey_injective (rks : Schedule) (r : Nat) : Function.Injective fun s => addRoundKey s rks r :=
  Function.Involutive.injective fun s => addRoundKey_addRoundKey s rks r

theorem middleRound_injective (rks : Schedule) (r : Nat) : Function.Injective fun s => middleRound rks s r :=
  (addRoundKey_injective rks r).comp (mixColumns_injective.comp (shiftRows_injective.comp subBytes_injective))

theorem finalRound_injective (rks : Schedule) (r : Nat) : Function.Injective fun s => finalRound rks s r :=
  (addRoundKey_injective rks r).comp (shiftRows_injective.comp subBytes_injective)

theorem roundState_injective (rks : Schedule) (r : Nat) : Function.Injective fun pt => roundState pt rks r := by
  induction r with
  | zero => exact addRoundKey_injective rks 0
  | succ r ih => exact (middleRound_injective rks (r + 1)).comp ih

theorem cipher_injective (rks : Schedule) (rounds : Nat) : Function.Injective fun pt => cipher pt rks rounds := by
  simp only [cipher_eq_finalRound_roundState]
  exact (finalRound_injective rks rounds).comp (roundState_injective rks (rounds - 1))

/-- A block is given by its 16 bytes, so there are finitely many. -/
theorem finite_block : Finite Block :=
  Finite.of_injective (fun (b : Block) (k : Fin 16) => b[k]) fun _ _ h => Vector.ext fun k hk => congrFun h ⟨k, hk⟩

/-- Settles O34: the transform is one to one, round operation by round operation, and there are finitely many blocks. -/
theorem cipherIsABijection : Obligations.CipherIsABijection :=
  fun rks rounds =>
    have := finite_block
    Finite.injective_iff_bijective.1 (cipher_injective rks rounds)

end Sys2Proof.Machine
end

section
/-! Proofs of the statements of 43_ecb_controller.md: the sequencer, the checks of each command, the BLOCK step, what each command
leaves unchanged. -/

namespace Sys2Proof.Machine

/-! ## The checks of the START steps (rules R164, R165, R171, R173, R174, R203) -/

theorem keylenOk_eq_false {e : Engine} (h16 : e.keylen ≠ 16#8) (h32 : e.keylen ≠ 32#8) : keylenOk e = false :=
  Bool.eq_false_iff.2 fun h => ((keylenOk_iff e).1 h).elim h16 h32

theorem lenOk_eq_false {e : Engine} (h : e.len = 0#32 ∨ e.len.toNat % 16 ≠ 0) : lenOk e = false := by
  rw [Bool.eq_false_iff, Ne, lenOk_iff]
  tauto

section
variable {s : State} (hphase : s.eng.phase = .start)
include hphase

theorem exec_expandKey_of_keylenOk (hkey : keylenOk s.eng = true) : exec .expandKey s = .next (s.goTo .expand) := by
  rw [exec_start hphase]
  simp [startOf, startExpandKey, hkey]

theorem exec_expandKey_of_not_keylenOk (hkey : keylenOk s.eng = false) :
    exec .expandKey s = .next (s.finish .invalidKeyLength) := by
  rw [exec_start hphase]
  simp [startOf, startExpandKey, hkey]

theorem exec_ecbEncrypt_of_not_keyvalid (hvalid : s.eng.keyvalid = false) :
    exec .ecbEncrypt s = .next (s.finish .missingInput) := by
  rw [exec_start hphase]
  simp [startOf, startEcbEncrypt, hvalid]

theorem exec_ecbEncrypt_of_not_lenOk (hvalid : s.eng.keyvalid = true) (hlen : lenOk s.eng = false) :
    exec .ecbEncrypt s = .next (s.finish .invalidBufferLength) := by
  rw [exec_start hphase]
  simp [startOf, startEcbEncrypt, hvalid, hlen]

theorem exec_ecbEncrypt_of_lenOk (hvalid : s.eng.keyvalid = true) (hlen : lenOk s.eng = true) :
    exec .ecbEncrypt s = .next (s.goTo .block) := by
  rw [exec_start hphase]
  simp [startOf, startEcbEncrypt, hvalid, hlen]

theorem exec_encrypt_of_not_keylenOk (hkey : keylenOk s.eng = false) :
    exec .encrypt s = .next (s.finish .invalidKeyLength) := by
  rw [exec_start hphase]
  simp [startOf, startEncrypt, hkey]

theorem exec_encrypt_of_not_lenOk (hkey : keylenOk s.eng = true) (hlen : lenOk s.eng = false) :
    exec .encrypt s = .next (s.finish .invalidBufferLength) := by
  rw [exec_start hphase]
  simp [startOf, startEncrypt, hkey, hlen]

theorem exec_encrypt_of_lenOk (hkey : keylenOk s.eng = true) (hlen : lenOk s.eng = true) :
    exec .encrypt s = .next (s.goTo .expand) := by
  rw [exec_start hphase]
  simp [startOf, startEncrypt, hkey, hlen]

end

/-- R166: the schedule and the rounds that EXPAND writes, by the key length. -/
theorem loadSchedule_expansion (p : Platform) (e : Engine) :
    e.loadSchedule (e.expansion p).1 (e.expansion p).2 =
      { e with
        rks := if e.keylen = 16#8 then keyExpansion128 (keyBytes e) else keyExpansion256 p.ks256Mode (keyBytes e)
        rounds := if e.keylen = 16#8 then 10#8 else 14#8
        keyvalid := true } := by
  by_cases h : e.keylen = 16#8
  · rw [expansion_16 p h, if_pos h, if_pos h]
    rfl
  · rw [expansion_32 p h, if_neg h, if_neg h]
    rfl

theorem exec_expand_of_expandKey {i : Instr} {s : State} (hphase : s.eng.phase = .expand) (hop : s.eng.op = .cmd .expandKey) :
    exec i s = .next (s.setEng ((s.eng.loadSchedule (s.eng.expansion s.cfg).1 (s.eng.expansion s.cfg).2).finish .ok)) := by
  obtain ⟨-, h⟩ | ⟨hne, -⟩ := expandStep_cases s
  · rw [exec_expand hphase, h]
  · exact absurd hop hne

theorem exec_expand_of_encrypt {i : Instr} {s : State} (hphase : s.eng.phase = .expand) (hop : s.eng.op = .cmd .encrypt) :
    exec i s = .next (s.setEng (s.eng.loadSchedule (s.eng.expansion s.cfg).1 (s.eng.expansion s.cfg).2).enterBlocks) := by
  obtain ⟨hexpand, -⟩ | ⟨-, h⟩ := expandStep_cases s
  · cases hop.symm.trans hexpand
  · rw [exec_expand hphase, h]

/-- Settles O36: the START step by the check of KEYLEN, the EXPAND step by `loadSchedule_expansion`. -/
theorem expandKeyCompletes : Obligations.ExpandKeyCompletes := by
  refine fun s => ⟨fun hphase hkey => ?_, fun hphase h16 h32 => ?_, fun hphase hop => ?_⟩
  · exact exec_expandKey_of_keylenOk hphase ((keylenOk_iff _).2 hkey)
  · exact exec_expandKey_of_not_keylenOk hphase (keylenOk_eq_false h16 h32)
  · rw [exec_expand_of_expandKey hphase hop, loadSchedule_expansion]
    rfl

/-- Settles O38: the checks of KEYVALID and then of LEN, each with its lemma. -/
theorem ecbEncryptChecksInOrder : Obligations.EcbEncryptChecksInOrder :=
  fun _ hphase =>
    ⟨exec_ecbEncrypt_of_not_keyvalid hphase, fun hvalid hlen => exec_ecbEncrypt_of_not_lenOk hphase hvalid (lenOk_eq_false hlen),
      fun hvalid h0 h16 => exec_ecbEncrypt_of_lenOk hphase hvalid ((lenOk_iff _).2 ⟨h0, h16⟩)⟩

/-- Settles O39: the checks of KEYLEN and then of LEN, each with its lemma. -/
theorem encryptChecksInOrder : Obligations.EncryptChecksInOrder :=
  fun _ hphase =>
    ⟨fun h16 h32 => exec_encrypt_of_not_keylenOk hphase (keylenOk_eq_false h16 h32),
      fun hkey hlen => exec_encrypt_of_not_lenOk hphase ((keylenOk_iff _).2 hkey) (lenOk_eq_false hlen),
      fun hkey h0 h16 => exec_encrypt_of_lenOk hphase ((keylenOk_iff _).2 hkey) ((lenOk_iff _).2 ⟨h0, h16⟩)⟩

/-- Settles O40: the EXPAND step of ENCRYPT writes the schedule of `loadSchedule_expansion` and goes on to block 0. -/
theorem encryptExpandsThenEntersBlocks : Obligations.EncryptExpandsThenEntersBlocks := by
  intro s hphase hop
  rw [exec_expand_of_encrypt hphase hop, loadSchedule_expansion]
  rfl

/-- Settles O49: neither the check nor the work of ENCRYPT_BLOCK reads KEY or KEYLEN. -/
theorem encryptBlockIgnoresKeyRegisters : Obligations.EncryptBlockIgnoresKeyRegisters := by
  intro s k n hphase
  cases hvalid : s.eng.keyvalid with
  | true => exact ⟨_, _, exec_encryptBlock_of_keyvalid hphase hvalid, exec_encryptBlock_of_keyvalid hphase hvalid, rfl⟩
  | false =>
    exact ⟨_, _, exec_encryptBlock_of_not_keyvalid hphase hvalid, exec_encryptBlock_of_not_keyvalid hphase hvalid, rfl⟩

/-! ## The sequencer (rule R178) -/

/-- R167: a block's end either completes with OK or leaves the sequencer where it is. -/
theorem blockDone_phase (e : Engine) (ct : Block) :
    (e.blockDone ct).phase = .idle ∧ (e.blockDone ct).errcode = .ok ∨ (e.blockDone ct).phase = e.phase := by
  obtain ⟨-, h⟩ | ⟨-, h⟩ := blockDone_cases e ct <;> rw [h]
  · exact .inl ⟨rfl, rfl⟩
  · exact .inr rfl

/-- R167, R202: a BLOCK step ends the command with OK or BUS_ERROR, or stays in BLOCK. -/
theorem blockStep_phase (s : State) :
    s.blockStep.eng.phase = .idle ∧ (s.blockStep.eng.errcode = .ok ∨ s.blockStep.eng.errcode = .busError) ∨
      s.blockStep.eng.phase = s.eng.phase := by
  obtain ⟨-, h⟩ | ⟨-, -, h⟩ | ⟨-, -, h⟩ := blockStep_cases s <;> rw [h]
  · exact .inl ⟨rfl, .inr rfl⟩
  · exact .inl ⟨rfl, .inr rfl⟩
  · rw [State.setEng_eng]
    obtain ⟨hidle, hok⟩ | hsame := blockDone_phase s.eng (s.eng.transform (blockAt s.mem (blockAddr s.eng.src s.eng.blk)))
    · exact .inl ⟨hidle, .inl hok⟩
    · exact .inr hsame

/-- R166: an EXPAND step ends the command with OK or goes on to BLOCK. -/
theorem expandStep_phase (s : State) :
    s.expandStep.eng.phase = .idle ∧ s.expandStep.eng.errcode = .ok ∨ s.expandStep.eng.phase = .block := by
  obtain ⟨-, h⟩ | ⟨-, h⟩ := expandStep_cases s <;> rw [h]
  · exact .inl ⟨rfl, rfl⟩
  · exact .inr rfl

theorem startOf_phase (i : Instr) (s : State) :
    (startOf i s).eng.phase = .expand ∨ (startOf i s).eng.phase = .block ∨ (startOf i s).eng.phase = .idle := by
  obtain ⟨c, -, h⟩ | ⟨h, -⟩ | ⟨h, -⟩ | ⟨h, -⟩ | ⟨h, -⟩ := startOf_cases i s <;> rw [h]
  · exact .inr (.inr rfl)
  · exact .inl rfl
  · exact .inr (.inl rfl)
  · exact .inr (.inr rfl)
  · exact .inr (.inr rfl)

/-- Settles O6: the transfers of each phase's step. -/
theorem sequencerTransfers : Obligations.SequencerTransfers := by
  intro s i
  refine ⟨_, exec_eq_runPhase i s, fun hphase => ?_, fun hphase => ?_, fun hphase => ?_, runPhase_idle⟩
  · rw [runPhase_start hphase]
    exact startOf_phase i s
  · rw [runPhase_expand hphase]
    exact (expandStep_phase s).symm.imp_right And.left
  · rw [runPhase_block hphase, ← hphase]
    exact (blockStep_phase s).symm.imp_right And.left

/-- Settles O46: a START step that fails a check is a completion with that error, and the other two steps check nothing. -/
theorem checksComeBeforeWork : Obligations.ChecksComeBeforeWork := by
  refine ⟨fun s i hphase => ?_, fun s i hphase => ?_, fun s i hphase => ?_⟩
  · refine ⟨_, exec_start hphase, startOf_frame i s, fun a => by rw [startOf_mem], ?_⟩
    obtain ⟨c, hc, h⟩ | ⟨h, -⟩ | ⟨h, -⟩ | ⟨h, -⟩ | ⟨h, -⟩ := startOf_cases i s <;> rw [h]
    · exact fun _ _ => ⟨rfl, hc⟩
    · exact fun hidle => Phase.noConfusion hidle
    · exact fun hidle => Phase.noConfusion hidle
    · exact fun _ herr => absurd rfl herr
    · exact fun _ herr => absurd rfl herr
  · refine ⟨_, exec_expand hphase, fun hidle => ?_⟩
    obtain ⟨-, hok⟩ | hblock := expandStep_phase s
    · exact hok
    · cases hidle.symm.trans hblock
  · refine ⟨_, exec_block hphase, fun hidle => ?_⟩
    obtain ⟨-, herr⟩ | hsame := blockStep_phase s
    · exact herr
    · cases hidle.symm.trans (hsame.trans hphase)

/-! ## The BLOCK step (rules R70, R71, R167) -/

/-- R167: the address of the destination block under way. -/
def State.dstBlock (s : State) : Addr := blockAddr s.eng.dst s.eng.blk

/-- R167: the ciphertext of the source block under way. -/
def State.ciphertext (s : State) : Block :=
  cipher (blockAt s.mem (blockAddr s.eng.src s.eng.blk)) s.eng.rks s.eng.rounds.toNat

theorem blockStep_of_read_fails {s : State} (hr : blockOk s.cfg (blockAddr s.eng.src s.eng.blk) .read = false) :
    s.blockStep = s.finish .busError := by
  obtain ⟨-, h⟩ | ⟨hr', -⟩ | ⟨hr', -⟩ := blockStep_cases s
  · exact h
  · cases hr.symm.trans hr'
  · cases hr.symm.trans hr'

theorem blockStep_of_write_fails {s : State} (hr : blockOk s.cfg (blockAddr s.eng.src s.eng.blk) .read = true)
    (hw : blockOk s.cfg s.dstBlock .write = false) :
    s.blockStep =
      ((s.setMem (writeSelected s.mem s.dstBlock s.ciphertext (failedWriteSel s.cfg s.dstBlock s.draws))).draw 16).setEng
        ((s.eng.setWork s.ciphertext).finish .busError) := by
  obtain ⟨hr', -⟩ | ⟨-, -, h⟩ | ⟨-, hw', -⟩ := blockStep_cases s
  · cases hr.symm.trans hr'
  · exact h
  · cases hw.symm.trans hw'

theorem blockStep_of_ok {s : State} (hr : blockOk s.cfg (blockAddr s.eng.src s.eng.blk) .read = true)
    (hw : blockOk s.cfg s.dstBlock .write = true) :
    s.blockStep =
      (s.setMem (writeSelected s.mem s.dstBlock s.ciphertext fun _ => true)).setEng (s.eng.blockDone s.ciphertext) := by
  obtain ⟨hr', -⟩ | ⟨-, hw', -⟩ | ⟨-, -, h⟩ := blockStep_cases s
  · cases hr.symm.trans hr'
  · cases hw.symm.trans hw'
  · exact h

/-- R71: a block write changes no byte outside the block. -/
theorem writeSelected_read_of_not_inBlock {m : Memory} {a x : Addr} (v : Block) (sel : Nat → Bool) (hx : ¬InBlock a x) :
    (writeSelected m a v sel).read x.toNat = m.read x.toNat :=
  writeSelected_read_out m a v sel x fun j hj => hx ⟨j.val, j.isLt, hj⟩

/-- R71: a byte of a block write is old or new. -/
theorem writeSelected_read_old_or_new {m : Memory} (a : Addr) (v : Block) (sel : Nat → Bool) (hm : m.wf = true) (j : Fin 16) :
    (writeSelected m a v sel).read (byteAddr a j.val).toNat = m.read (byteAddr a j.val).toNat ∨
      (writeSelected m a v sel).read (byteAddr a j.val).toNat = v[j] := by
  rw [writeSelected_read_in a v sel hm j]
  cases sel j.val
  · exact .inl rfl
  · exact .inr rfl

/-- R71: the state after a failed block write is the one before it but for the engine, the memory and the count of draws. -/
theorem setMem_draw_setEng_frame (s : State) (m : Memory) (n : Nat) (e : Engine) :
    ((s.setMem m).draw n).setEng e =
      { s with
        eng := (((s.setMem m).draw n).setEng e).eng
        mem := (((s.setMem m).draw n).setEng e).mem
        draws := (((s.setMem m).draw n).setEng e).draws } := rfl

/-- Settles O42: the failed read is a completion with BUS_ERROR. -/
theorem failedReadIsABusError : Obligations.FailedReadIsABusError := by
  intro s i _ hphase hr
  rw [exec_block hphase, blockStep_of_read_fails hr]
  rfl

/-- Settles O43: the memory is that of a partial block write at the bytes `failedWriteSel` selects, so never at a refused one. -/
theorem failedWriteIsABusError : Obligations.FailedWriteIsABusError := by
  intro s i _ hwf hphase hr hw
  rw [exec_block hphase, blockStep_of_write_fails hr hw]
  refine ⟨_, rfl, setMem_draw_setEng_frame s _ 16 _, rfl, fun a ha => ?_, fun j => ⟨fun hbad => ?_, ?_⟩⟩
  · rw [State.setEng_mem, State.draw_mem, State.setMem_mem]
    exact writeSelected_read_of_not_inBlock _ _ ha
  · have hsel : failedWriteSel s.cfg s.dstBlock s.draws j.val = false := by
      rw [failedWriteSel, State.dstBlock, hbad, Bool.false_and]
    rw [State.setEng_mem, State.draw_mem, State.setMem_mem]
    refine (writeSelected_read_in s.dstBlock s.ciphertext _ hwf j).trans ?_
    rw [hsel]
    rfl
  · rw [State.setEng_mem, State.draw_mem, State.setMem_mem]
    exact writeSelected_read_old_or_new s.dstBlock s.ciphertext _ hwf j

/-- Settles O41: the memory is that of a whole block write, and the engine's end by `blockDone_cases`. -/
theorem blockStepEncryptsOneBlock : Obligations.BlockStepEncryptsOneBlock := by
  intro s i _ hwf hphase hr hw
  rw [exec_block hphase, blockStep_of_ok hr hw]
  refine ⟨_, rfl, setMem_setEng_frame s _ _, ?_, fun a ha => ?_, fun hlast => ?_, fun hmore => ?_⟩
  · rw [State.setEng_mem, State.setMem_mem]
    exact blockAt_writeSelected s.dstBlock s.ciphertext hwf
  · rw [State.setEng_mem, State.setMem_mem]
    exact writeSelected_read_of_not_inBlock _ _ ha
  · obtain ⟨-, h⟩ | ⟨hne, -⟩ := blockDone_cases s.eng s.ciphertext
    · rw [State.setEng_eng, h]
      rfl
    · exact absurd hlast hne
  · obtain ⟨heq, -⟩ | ⟨-, h⟩ := blockDone_cases s.eng s.ciphertext
    · exact absurd heq hmore
    · rw [State.setEng_eng, h]
      rfl

/-! ## What the commands leave unchanged (rules R62, R85) -/

/-- R85: the registers that the command i leaves alone, beside the operands that every command does. -/
def KeepsRegisters (i : Instr) (e e' : Engine) : Prop :=
  (i ≠ .clear → e'.key = e.key ∧ e'.din = e.din) ∧
  (i ≠ .clear → i ≠ .encryptBlock → e'.dout = e.dout) ∧
  (i = .nop ∨ i = .encryptBlock ∨ i = .ecbEncrypt → e'.rks = e.rks ∧ e'.keyvalid = e.keyvalid ∧ e'.rounds = e.rounds) ∧
  (i ≠ .ecbEncrypt → i ≠ .encrypt → e'.blkcnt = e.blkcnt ∧ e'.blk = e.blk)

theorem keepsRegisters_refl (i : Instr) (e : Engine) : KeepsRegisters i e e :=
  ⟨fun _ => ⟨rfl, rfl⟩, fun _ _ => rfl, fun _ => ⟨rfl, rfl, rfl⟩, fun _ _ => ⟨rfl, rfl⟩⟩

theorem startOf_keepsRegisters (i : Instr) (s : State) : KeepsRegisters i s.eng (startOf i s).eng := by
  obtain ⟨c, -, h⟩ | ⟨h, -⟩ | ⟨h, -⟩ | ⟨h, rfl⟩ | ⟨h, rfl⟩ := startOf_cases i s <;> rw [h]
  · exact keepsRegisters_refl i s.eng
  · exact keepsRegisters_refl i s.eng
  · exact keepsRegisters_refl i s.eng
  · exact ⟨fun _ => ⟨rfl, rfl⟩, fun _ hne => absurd rfl hne, fun _ => ⟨rfl, rfl, rfl⟩, fun _ _ => ⟨rfl, rfl⟩⟩
  · exact ⟨fun hne => absurd rfl hne, fun hne => absurd rfl hne, by simp, fun _ _ => ⟨rfl, rfl⟩⟩

/-- R166: only EXPAND_KEY and ENCRYPT reach EXPAND. -/
theorem expandStep_keepsRegisters {i : Instr} {s : State} (hinv : s.eng.Inv) (hphase : s.eng.phase = .expand)
    (hop : s.eng.op = .cmd i) : KeepsRegisters i s.eng s.expandStep.eng := by
  obtain ⟨-, hexpand, -⟩ := hinv
  rw [Engine.phaseInv, hphase] at hexpand
  obtain ⟨-, -, -, hcmd⟩ := hexpand
  rw [hop] at hcmd
  obtain ⟨hexp, h⟩ | ⟨hne, h⟩ := expandStep_cases s <;> rw [h]
  · obtain rfl : i = .expandKey := Op.cmd.inj (hop.symm.trans hexp)
    exact ⟨fun _ => ⟨rfl, rfl⟩, fun _ _ => rfl, by simp, fun _ _ => ⟨rfl, rfl⟩⟩
  · obtain rfl : i = .encrypt := Op.cmd.inj (hcmd.resolve_left (hop ▸ hne)).1
    exact ⟨fun _ => ⟨rfl, rfl⟩, fun _ _ => rfl, by simp, fun _ hne => absurd rfl hne⟩

theorem isBufferCmd_cmd {i : Instr} (h : isBufferCmd (.cmd i) = true) : i = .ecbEncrypt ∨ i = .encrypt := by
  cases i <;> simp [isBufferCmd] at h ⊢

/-- R162: only ECB_ENCRYPT and ENCRYPT reach BLOCK. -/
theorem Engine.Inv.block_cmd {e : Engine} {i : Instr} (hinv : e.Inv) (hphase : e.phase = .block) (hop : e.op = .cmd i) :
    i = .ecbEncrypt ∨ i = .encrypt := by
  obtain ⟨-, hblock, -⟩ := hinv
  rw [Engine.phaseInv, hphase] at hblock
  exact isBufferCmd_cmd (hop ▸ hblock.1)

/-- R167: a BLOCK step counts the block and ends the command, and writes no other register. -/
theorem blockStep_keepsRegisters {i : Instr} {s : State} (hcmd : i = .ecbEncrypt ∨ i = .encrypt) :
    KeepsRegisters i s.eng s.blockStep.eng := by
  have hcount : ∀ e' : Engine, e'.key = s.eng.key ∧ e'.din = s.eng.din ∧ e'.dout = s.eng.dout ∧ e'.rks = s.eng.rks ∧
      e'.keyvalid = s.eng.keyvalid ∧ e'.rounds = s.eng.rounds → KeepsRegisters i s.eng e' := by
    rintro e' ⟨hkey, hdin, hdout, hsched⟩
    exact ⟨fun _ => ⟨hkey, hdin⟩, fun _ _ => hdout, fun _ => hsched, fun hecb henc => absurd hcmd (by tauto)⟩
  obtain ⟨-, h⟩ | ⟨-, -, h⟩ | ⟨-, -, h⟩ := blockStep_cases s <;> rw [h]
  · exact keepsRegisters_refl i s.eng
  · exact keepsRegisters_refl i s.eng
  · rw [State.setEng_eng]
    obtain ⟨-, hd⟩ | ⟨-, hd⟩ := blockDone_cases s.eng (s.eng.transform (blockAt s.mem (blockAddr s.eng.src s.eng.blk))) <;>
      rw [hd] <;> exact hcount _ ⟨rfl, rfl, rfl, rfl, rfl, rfl⟩

/-- Settles O47: every step keeps the operands, and each phase's step the registers of its command. -/
theorem commandRegisterFrame : Obligations.CommandRegisterFrame := by
  intro s t i hinv hop hexec
  obtain ⟨u, hu, hhost, hcfg, hturns, howned⟩ := engineStep_next s
  obtain rfl : u = t := Host.Outcome.next.inj (hu.symm.trans ((engineStep_cmd hop).trans hexec))
  obtain rfl : s.runPhase (startOf i) = u := Host.Outcome.next.inj ((exec_eq_runPhase i s).symm.trans hexec)
  obtain ⟨hie, hkeylen, hlen, hsrc, hdst, hop'⟩ := runPhase_sameOperands (startOf_sameOperands i s)
  refine ⟨hie, hkeylen, hlen, hsrc, hdst, hop', hhost, hcfg, hturns, howned, ?_⟩
  change KeepsRegisters i s.eng (s.runPhase (startOf i)).eng
  cases hphase : s.eng.phase with
  | idle => rw [runPhase_idle hphase]; exact keepsRegisters_refl i s.eng
  | start => rw [runPhase_start hphase]; exact startOf_keepsRegisters i s
  | expand => rw [runPhase_expand hphase]; exact expandStep_keepsRegisters hinv.1 hphase hop
  | block => rw [runPhase_block hphase]; exact blockStep_keepsRegisters (hinv.1.block_cmd hphase hop)

/-- R166, R177: outside the BLOCK phase a command's step changes no memory. -/
theorem runPhase_mem_of_not_block {s : State} {f : State → State} (hf : (f s).mem = s.mem) (hphase : s.eng.phase ≠ .block) :
    (s.runPhase f).mem = s.mem := by
  cases hp : s.eng.phase with
  | idle => rw [runPhase_idle hp]
  | start => rwa [runPhase_start hp]
  | expand =>
    rw [runPhase_expand hp]
    obtain ⟨-, h⟩ | ⟨-, h⟩ := expandStep_cases s <;> rw [h] <;> rfl
  | block => exact absurd hp hphase

/-- R70, R71, R167: the memory after a BLOCK step is as before, or a write of bytes of the destination block at addresses that
MEM_OK admits. -/
theorem blockStep_mem (s : State) :
    s.blockStep.mem = s.mem ∨
      ∃ v sel, s.blockStep.mem = writeSelected s.mem s.dstBlock v sel ∧
        ∀ j : Fin 16, sel j.val = true → memOk s.cfg (byteAddr s.dstBlock j.val) .write = true := by
  obtain ⟨-, h⟩ | ⟨-, -, h⟩ | ⟨-, hw, h⟩ := blockStep_cases s <;> rw [h]
  · exact .inl rfl
  · rw [State.setEng_mem, State.draw_mem, State.setMem_mem]
    refine .inr ⟨s.ciphertext, failedWriteSel s.cfg s.dstBlock s.draws, rfl, fun j hj => ?_⟩
    rw [failedWriteSel, Bool.and_eq_true] at hj
    exact hj.1
  · rw [State.setEng_mem, State.setMem_mem]
    exact .inr ⟨s.ciphertext, fun _ => true, rfl, fun j _ => blockOk_byte hw j⟩

/-- R61, R71: a BLOCK step changes no byte outside its destination block, and none where MEM_OK admits no write. -/
theorem blockStep_read_of_not_inBlock {s : State} (hwf : s.mem.wf = true) {a : Addr}
    (ha : ¬InBlock s.dstBlock a ∨ memOk s.cfg a .write = false) : s.blockStep.mem.read a.toNat = s.mem.read a.toNat := by
  obtain h | ⟨v, sel, h, hsel⟩ := blockStep_mem s <;> rw [h]
  by_cases hin : InBlock s.dstBlock a
  · obtain ⟨j, hj, rfl⟩ := hin
    have hbad := ha.resolve_left (not_not.2 ⟨j, hj, rfl⟩)
    have hj' : sel j = false := Bool.eq_false_iff.2 fun hs => by
      cases hbad.symm.trans (hsel ⟨j, hj⟩ hs)
    refine (writeSelected_read_in s.dstBlock v sel hwf ⟨j, hj⟩).trans ?_
    rw [hj']
    rfl
  · exact writeSelected_read_of_not_inBlock v sel hin

/-- R62: in the BLOCK phase the destination block lies in the destination range. -/
theorem inRange_of_inBlock_dst {e : Engine} (hinv : e.Inv) (hphase : e.phase = .block) {a : Addr}
    (ha : InBlock (blockAddr e.dst e.blk) a) : inRange e.dst e.len a = true := by
  obtain ⟨-, hblock, -⟩ := hinv
  rw [Engine.phaseInv, hphase] at hblock
  obtain ⟨-, hlen, -, hlt, -⟩ := hblock
  obtain ⟨j, hj, rfl⟩ := ha
  exact inRange_block e.dst hlen hlt hj

/-- Settles O48: only a BLOCK step writes memory, and it is a step of a buffer command. -/
theorem commandMemoryFrame : Obligations.CommandMemoryFrame := by
  intro s t i hinv hop hexec
  obtain rfl : s.runPhase (startOf i) = t := Host.Outcome.next.inj ((exec_eq_runPhase i s).symm.trans hexec)
  obtain ⟨heng, hwf, -⟩ := hinv
  by_cases hphase : s.eng.phase = .block
  · rw [runPhase_block hphase]
    refine ⟨fun hecb henc => ?_, fun a ha => ?_, fun a ha => blockStep_read_of_not_inBlock hwf (.inr ha)⟩
    · exact absurd (heng.block_cmd hphase hop) (by tauto)
    · refine blockStep_read_of_not_inBlock hwf (.inl fun hin => ?_)
      cases ha.symm.trans (inRange_of_inBlock_dst heng hphase hin)
  · have hmem := runPhase_mem_of_not_block (startOf_mem i s) hphase
    exact ⟨fun _ _ _ => by rw [hmem], fun _ _ => by rw [hmem], fun _ _ => by rw [hmem]⟩

end Sys2Proof.Machine
end

section
/-! Proofs of the statements about the HOST: the CMD write (43_ecb_controller.md), the faults (60_exceptions.md), buffer accesses
(20_memory.md), branches and END (30_encoding.md), observed completion and RESET (70_reset_and_hazards.md). -/

namespace Sys2Proof.Machine

/-! ## The CMD write (rules R27, R160, R207) -/

/-- R62, R82: the buffer commands are words 3 and 4. -/
theorem isBufferCmd_opOfWord (v : Word) : isBufferCmd (opOfWord v) = true ↔ v = 0x00000003#32 ∨ v = 0x00000004#32 := by
  constructor
  · intro h
    cases hop : opOfWord v with
    | illegal => rw [hop] at h; cases h
    | cmd i =>
      rw [hop] at h
      have hv := (opOfWord_eq_cmd_iff v i).1 hop
      obtain rfl | rfl := isBufferCmd_cmd h
      · exact .inl hv
      · exact .inr hv
  · rintro (rfl | rfl) <;> rfl

/-- R27: the step of a host that writes CMD. -/
theorem step_host_write_cmd {s : State} {ts : List Agent} {v : Word} (h : s.turns = .host :: ts)
    (hc : s.host.current = some (.write 32 0x004 v)) : step s = advanceAfter ((s.setTurns ts).writeCmd v) :=
  step_host_write h hc (by decide) rfl

/-- Settles O15: idle and not over the window, `State.writeCmd` accepts. -/
theorem commandWriteIsAccepted : Obligations.CommandWriteIsAccepted := by
  intro s ts v h hc hbusy halias
  have haccept : (s.setTurns ts).writeCmd v = .next ((s.setTurns ts).accept v) := by
    obtain ⟨hb, -⟩ | ⟨-, hbuf, ha, -⟩ | ⟨-, -, hw⟩ := writeCmd_cases (s.setTurns ts) v
    · cases hbusy.symm.trans hb
    · cases (halias hbuf).symm.trans ha
    · exact hw
  refine ⟨((s.setTurns ts).accept v).hostAdvance, ?_, rfl, rfl, rfl, ?_, ?_⟩
  · rw [step_host_write_cmd h hc, haccept]
    rfl
  · exact if_congr (isBufferCmd_opOfWord v) rfl rfl
  · show s.eng.accept (opOfWord v) = _
    simp only [Engine.accept, isBufferCmd_opOfWord]
    rfl

/-- R63, R207: what it is for a range to cover the register window. -/
theorem aliases_iff (p : Platform) (e : Engine) :
    aliases p e = true ↔
      ∃ w a, p.windowAt = some w ∧ (a - w).toNat < 1024 ∧ (memOk p a .read = true ∨ memOk p a .write = true) ∧
        (inRange e.src e.len a = true ∨ inRange e.dst e.len a = true) := by
  have hwindow : ∀ w a, p.windowAt = some w →
      (inWindow p a = true ↔ (a - w).toNat < 1024 ∧ (memOk p a .read = true ∨ memOk p a .write = true)) := by
    intro w a hw
    simp [inWindow, hw, inRange]
  constructor
  · intro h
    unfold aliases at h
    cases hw : p.windowAt with
    | none => simp [hw] at h
    | some w =>
      simp only [hw, Bool.and_eq_true, List.any_eq_true, Bool.or_eq_true] at h
      obtain ⟨-, j, -, hin, hrange⟩ := h
      obtain ⟨hlt, hok⟩ := (hwindow w _ hw).1 hin
      exact ⟨w, _, rfl, hlt, hok, hrange⟩
  · rintro ⟨w, a, hw, hlt, hok, hrange⟩
    have haddr : byteAddr w (a - w).toNat = a := by
      rw [byteAddr, BitVec.ofNat_toNat, BitVec.setWidth_eq, BitVec.add_comm, BitVec.sub_add_cancel]
    have hlen : e.len ≠ 0#32 := by
      rintro h0
      simp [inRange, h0] at hrange
    unfold aliases
    simp only [hw, Bool.and_eq_true, List.any_eq_true, Bool.or_eq_true, List.mem_range]
    refine ⟨bne_iff_ne.2 hlen, (a - w).toNat, hlt, ?_⟩
    rw [haddr]
    exact ⟨(hwindow w a hw).2 ⟨hlt, hok⟩, hrange⟩

/-- Settles O19: the address witnesses `aliases`, so the CMD write faults. -/
theorem bufferOverTheWindowFaults : Obligations.BufferOverTheWindowFaults := by
  intro s ts v w a h hc hbusy hv hw hlt hok hrange
  have halias : aliases s.cfg s.eng = true := (aliases_iff _ _).2 ⟨w, a, hw, hlt, hok, hrange⟩
  rw [step_host_write_cmd h hc]
  obtain ⟨hb, -⟩ | ⟨-, -, -, hf⟩ | ⟨-, hno, -⟩ := writeCmd_cases (s.setTurns ts) v
  · cases hbusy.symm.trans hb
  · rw [hf]
    rfl
  · cases halias.symm.trans (hno ((isBufferCmd_opOfWord v).2 hv))

/-! ## Buffer accesses (rules R64, R206) -/

theorem step_host_memRead {s : State} {ts : List Agent} {a : Addr} {n x : Nat} (h : s.turns = .host :: ts)
    (hc : s.host.current = some (.memRead a n x)) :
    step s =
      if s.races a n then .fault .hostBufferRace else .next ((s.setTurns ts).hostBind x (.bytes (readBytes s.mem a n))) :=
  step_host_stmt h hc

theorem step_host_memWrite {s : State} {ts : List Agent} {a : Addr} {bs : List Byte} (h : s.turns = .host :: ts)
    (hc : s.host.current = some (.memWrite a bs)) :
    step s =
      if s.races a bs.length then .fault .hostBufferRace
      else .next ((s.setTurns ts).setMem (writeBytes s.mem a bs)).hostAdvance :=
  step_host_stmt h hc

/-- R206: a host access that touches a claimed byte faults, read or write. -/
theorem step_of_covered {s : State} {ts : List Agent} {c : Claim} {a : Addr} {bs : List Byte} {n x j : Nat}
    (h : s.turns = .host :: ts) (hc : c ∈ s.owned) (hcov : c.covers (byteAddr a j) = true) :
    (s.host.current = some (.memRead a n x) → j < n → step s = .fault .hostBufferRace) ∧
    (s.host.current = some (.memWrite a bs) → j < bs.length → step s = .fault .hostBufferRace) := by
  have hraces : ∀ n, j < n → s.races a n = true := fun n hj => (races_iff s a n).2 ⟨j, hj, c, hc, hcov⟩
  refine ⟨fun hread hj => ?_, fun hwrite hj => ?_⟩
  · rw [step_host_memRead h hread, if_pos (hraces n hj)]
  · rw [step_host_memWrite h hwrite, if_pos (hraces _ hj)]

/-- Settles O18: by `step_of_covered`; under the invariant the running command's ranges are a claim. -/
theorem hostAccessToRunningBuffersFaults : Obligations.HostAccessToRunningBuffersFaults := by
  refine ⟨fun s ts c a bs n x j h hc hcov => step_of_covered h hc hcov, fun s ts a bs n x j hinv h hphase hbuf hrange => ?_⟩
  obtain ⟨-, -, hclaim⟩ := hinv
  refine step_of_covered h (hclaim hphase hbuf) ?_
  rw [Claim.covers, Bool.or_eq_true]
  exact hrange

/-- Settles O53: with no claimed byte touched, by the read-after-write laws of the buffer memory. -/
theorem hostMemoryWriteThenRead : Obligations.HostMemoryWriteThenRead := by
  refine ⟨fun s ts a bs hwf h hc hlen hraces => ?_, fun s ts a n x h hc hraces => ?_, fun m a n => ?_⟩
  · rw [step_host_memWrite h hc, if_neg (Bool.eq_false_iff.1 hraces)]
    exact ⟨_, rfl, rfl, readBytes_writeBytes a bs hwf hlen, fun x => writeBytes_read_other a bs x⟩
  · rw [step_host_memRead h hc, if_neg (Bool.eq_false_iff.1 hraces)]
    rfl
  · exact ⟨readBytes_length m a n, fun j => readBytes_getElem? m n a j⟩

/-! ## Which steps fault (rules R204 to R208) -/

/-- R205, R207: what a host write can fault with. -/
theorem busWrite_fault {s : State} {bits off : Nat} {v : Word} {f : Fault}
    (h : s.busWrite bits (s.cfg.base + off) v = .fault f) :
    f = .hostAccess ∧ off < 1024 ∧ (bits ≠ 32 ∨ off % 4 ≠ 0) ∨
    f = .bufferAlias ∧ bits = 32 ∧ off = 0x004 ∧ s.eng.busy = false ∧ isBufferCmd (opOfWord v) = true ∧
      aliases s.cfg s.eng = true := by
  unfold State.busWrite at h
  split at h
  · cases h
  · next o ho =>
    obtain ⟨rfl, hlt⟩ := windowOffset_eq_some.1 ho
    cases hok : accessOk bits o with
    | false =>
      rw [hok] at h
      cases h
      refine .inl ⟨rfl, hlt, ?_⟩
      by_contra hgood
      push Not at hgood
      simp [accessOk, hgood] at hok
    | true =>
      rw [hok] at h
      simp only [accessOk, Bool.and_eq_true, beq_iff_eq] at hok
      obtain ⟨hbits, h4⟩ := hok
      simp only [if_true, State.regWrite] at h
      split at h
      · next hcmd =>
        obtain ⟨-, hw⟩ | ⟨hb, hbuf, ha, hw⟩ | ⟨-, -, hw⟩ := writeCmd_cases s v <;> rw [hw] at h <;> cases h
        exact .inr ⟨rfl, hbits, (regAt_eq_cmd hlt h4).1 hcmd, hb, hbuf, ha⟩
      · cases h

/-- R205: a host read that gives no value is an unsupported access of the window. -/
theorem busRead_none {s : State} {bits off : Nat} (h : s.busRead bits (s.cfg.base + off) = none) :
    off < 1024 ∧ (bits ≠ 32 ∨ off % 4 ≠ 0) := by
  unfold State.busRead at h
  split at h
  · cases h
  · next o ho =>
    obtain ⟨rfl, hlt⟩ := windowOffset_eq_some.1 ho
    refine ⟨hlt, ?_⟩
    by_contra hgood
    push Not at hgood
    simp [accessOk, hgood] at h

/-- R205 to R207: what a HOST step can fault with, and which statement does. -/
theorem hostStep_fault {s : State} {f : Fault} (h : hostStep s = .fault f) :
    (f = .hostAccess ∧ ∃ bits off, off < 1024 ∧ (bits ≠ 32 ∨ off % 4 ≠ 0) ∧
      ((∃ v, s.host.current = some (.write bits off v)) ∨ ∃ x, s.host.current = some (.read bits off x))) ∨
    (f = .hostBufferRace ∧ ∃ a n, s.races a n = true ∧
      ((∃ bs, bs.length = n ∧ s.host.current = some (.memWrite a bs)) ∨ ∃ x, s.host.current = some (.memRead a n x))) ∨
    (f = .bufferAlias ∧ s.eng.busy = false ∧ aliases s.cfg s.eng = true ∧
      ∃ v, s.host.current = some (.write 32 0x004 v) ∧ isBufferCmd (opOfWord v) = true) := by
  unfold hostStep at h
  split at h
  · cases h
  · next st hst =>
    rw [hst]
    cases st with
    | label l => cases h
    | stop => cases h
    | irq n x => cases h
    | ifGoto c l =>
      simp only [hostStmtStep, hostIf] at h
      split at h
      · cases h
      · cases h
      · split at h <;> cases h
    | memRead a n x =>
      simp only [hostStmtStep, hostMemRead] at h
      split at h <;> cases h
      next hr => exact .inr (.inl ⟨rfl, a, n, hr, .inr ⟨x, rfl⟩⟩)
    | memWrite a bs =>
      simp only [hostStmtStep, hostMemWrite] at h
      split at h <;> cases h
      next hr => exact .inr (.inl ⟨rfl, a, bs.length, hr, .inl ⟨bs, rfl, rfl⟩⟩)
    | read bits off x =>
      simp only [hostStmtStep, hostRead] at h
      split at h <;> cases h
      next hnone =>
      obtain ⟨hlt, hbad⟩ := busRead_none hnone
      exact .inl ⟨rfl, bits, off, hlt, hbad, .inr ⟨x, rfl⟩⟩
    | write bits off v =>
      simp only [hostStmtStep, hostWrite] at h
      cases hu : s.busWrite bits (s.cfg.base + off) v with
      | next u => rw [hu] at h; cases h
      | refused r => rw [hu] at h; cases h
      | fault g =>
        rw [hu] at h
        cases h
        obtain ⟨rfl, hlt, hbad⟩ | ⟨rfl, rfl, rfl, hb, hbuf, ha⟩ := busWrite_fault hu
        · exact .inl ⟨rfl, bits, off, hlt, hbad, .inl ⟨v, rfl⟩⟩
        · exact .inr (.inr ⟨rfl, hb, ha, v, rfl, hbuf⟩)

/-- R204: "Engine errors are not traps". -/
theorem engineStep_ne_fault (s : State) (f : Fault) : engineStep s ≠ .fault f := by
  obtain ⟨t, ht, -⟩ := engineStep_next s
  rw [ht]
  nofun

/-- R20: a step with the ENGINE's or RESET's turn does not fault. -/
theorem step_ne_fault_of_turn {s : State} {ts : List Agent} (f : Fault)
    (h : s.turns = .engine :: ts ∨ s.turns = .reset :: ts) : step s ≠ .fault f := by
  obtain h | h := h
  · rw [step_engine h]
    exact engineStep_ne_fault _ f
  · rw [step_reset h]
    nofun

/-- R20: with no turn named, a host with no step does not make the step fault. -/
theorem step_ne_fault_of_not_hostEnabled {s : State} (f : Fault) (h : s.turns = []) (hhost : hostEnabled s = false) :
    step s ≠ .fault f := by
  by_cases hphase : s.eng.phase = .idle
  · rw [step_open_none h hhost hphase]
    nofun
  · rw [step_open_engine h hhost hphase]
    exact engineStep_ne_fault s f

/-- R20: a step that faults is the HOST's, whose turn it is or may be. -/
theorem turns_of_step_fault {s : State} {f : Fault} (h : step s = .fault f) :
    (∃ ts, s.turns = .host :: ts) ∨ s.turns = [] ∧ hostEnabled s = true := by
  cases hturns : s.turns with
  | nil =>
    refine .inr ⟨rfl, ?_⟩
    by_contra hhost
    exact step_ne_fault_of_not_hostEnabled f hturns (Bool.eq_false_iff.2 hhost) h
  | cons a ts =>
    cases a with
    | host => exact .inl ⟨ts, rfl⟩
    | engine => exact absurd h (step_ne_fault_of_turn f (.inl hturns))
    | reset => exact absurd h (step_ne_fault_of_turn f (.inr hturns))

/-- Settles O20: a fault is a HOST step's (`step_cases`), and `hostStep_fault` gives its cause. -/
theorem onlyHostStatementsFault : Obligations.OnlyHostStatementsFault := by
  refine ⟨fun s f h => ⟨turns_of_step_fault h, ?_⟩, engineStep_ne_fault, fun s ts f => step_ne_fault_of_turn f⟩
  obtain ⟨u, heng, -, hhost, hcfg, howned, hu⟩ := step_cases s
  rw [h] at hu
  have hfault : hostStep u = .fault f := by
    obtain hu | hu | hu | hu := hu
    · cases hu
    · exact hu.symm
    · exact absurd hu.symm (engineStep_ne_fault u f)
    · cases hu
  have hcause := hostStep_fault hfault
  rw [hhost, heng, hcfg] at hcause
  obtain ⟨rfl, hacc⟩ | ⟨rfl, a, n, hraces, hst⟩ | ⟨rfl, hbusy, halias, v, hst, hbuf⟩ := hcause
  · exact hacc
  · obtain ⟨j, hj, c, hc, hcov⟩ := (races_iff u a n).1 hraces
    exact ⟨a, n, j, c, hj, howned ▸ hc, hcov, hst⟩
  · exact ⟨hbusy, ⟨v, hst, (isBufferCmd_opOfWord v).1 hbuf⟩, (aliases_iff _ _).1 halias⟩

/-! ## RESET (rules R230, R231) -/

/-- Settles O51: the RESET event puts the reset engine in place and leaves the rest. -/
theorem resetAbortsTheCommand : Obligations.ResetAbortsTheCommand :=
  fun _ _ h => ⟨_, step_reset h, rfl, rfl, rfl, rfl, rfl, rfl⟩

/-- R231: the memory after RESET is as before, or in the BLOCK phase a write of bytes of the ciphertext block under way. -/
theorem resetMem_cases (s : State) :
    resetMem s = s.mem ∨
      s.eng.phase = .block ∧ s.eng.blk < blockCount s.eng ∧
        ∃ sel, resetMem s = writeSelected s.mem s.dstBlock s.ciphertext sel := by
  unfold resetMem
  split
  · next hblock =>
    cases hr : blockOk s.cfg (blockAddr s.eng.src s.eng.blk) .read
    · rw [memReadBlock_fail hr]
      exact .inl rfl
    · rw [memReadBlock_ok hr]
      exact .inr ⟨hblock.1, hblock.2, fun j => Config.freeBit (s.draws + j), rfl⟩
  · exact .inl rfl

/-- Settles O52: by `resetMem_cases`, and the bytes of a partial block write. -/
theorem resetMayTearOneBlock : Obligations.ResetMayTearOneBlock := by
  intro s ts hwf h
  refine ⟨_, step_reset h, ?_⟩
  rw [show (resetEvent (s.setTurns ts)).mem = resetMem s from rfl]
  obtain hsame | ⟨hphase, hlt, sel, hmem⟩ := resetMem_cases s
  · rw [hsame]
    exact ⟨fun _ => rfl, fun _ _ => rfl, fun _ => .inl rfl⟩
  · rw [hmem]
    refine ⟨fun hout => ?_, fun a ha => writeSelected_read_of_not_inBlock _ _ ha,
      fun j => writeSelected_read_old_or_new s.dstBlock s.ciphertext sel hwf j⟩
    exact absurd hout (not_or.2 ⟨not_not.2 hphase, Nat.not_le.2 hlt⟩)

/-! ## Branches and END (rules R87, R89) -/

theorem evalCond_field {env : List (Nat × HostVal)} {x : Nat} {w : Word} (hi lo v : Nat) (h : lookup env x = some (.word w)) :
    evalCond env (.field x hi lo v) = some (w.toNat / 2 ^ lo % 2 ^ (hi + 1 - lo) == v) := by
  simp [evalCond, h, fieldOf]

/-- R161, R220: in IDLE the ENGINE's step keeps the state. -/
theorem engineStep_idle {s : State} (h : s.eng.phase = .idle) : engineStep s = .next s := by
  cases hop : s.eng.op with
  | cmd i => rw [engineStep_cmd hop, exec_eq_runPhase, runPhase_idle h]
  | illegal => rw [engineStep_illegal hop, execIllegal_eq_runPhase, runPhase_idle h]

/-- R89: no step but that of `END` changes how far the program is. -/
theorem step_run {s t : State} (h : step s = .next t) : t.host.run = s.host.run ∨ s.host.current = some .stop := by
  obtain ⟨u, -, -, hhost, -, -, hu⟩ := step_cases s
  rw [h] at hu
  rw [← hhost]
  obtain hu | hu | hu | hu := hu
  · cases hu
    exact .inl rfl
  · cases hc : u.host.current with
    | none =>
      rw [hostStep_none hc] at hu
      cases hu
      exact .inl rfl
    | some st =>
      rw [hostStep_current hc] at hu
      by_cases hst : st = .stop
      · exact .inr (congrArg some hst)
      · exact .inl (hostStmtStep_run hst hu.symm)
  · obtain ⟨t', ht', hhost', -⟩ := engineStep_next u
    cases hu.trans ht'
    exact .inl (congrArg HostAgent.run hhost')
  · cases hu
    exact .inl rfl

theorem hostEnabled_of_not_running {s : State} (h : s.host.run ≠ .running) : hostEnabled s = false := by
  simp [hostEnabled, current_ended h]

theorem ended_iff (s : State) : s.ended = true ↔ s.host.run = .ended ∧ s.eng.busy = false := by simp [State.ended]

/-- R89, R220: after `END` with BUSY = 0 no agent has a step, so only RESET changes anything. -/
theorem step_of_ended {s : State} (hinv : s.Inv) (h : s.ended = true) (hreset : ∀ ts, s.turns ≠ .reset :: ts) :
    ∃ ts, step s = .next (s.setTurns ts) := by
  obtain ⟨hrun, hbusy⟩ := (ended_iff s).1 h
  have hnot : s.host.run ≠ .running := by simp [hrun]
  have hidle : s.eng.phase = .idle := Engine.flagsInv_idle hinv.1.1 hbusy
  cases hturns : s.turns with
  | nil =>
    refine ⟨[], (step_open_none hturns (hostEnabled_of_not_running hnot) hidle).trans ?_⟩
    rw [← hturns]
    rfl
  | cons a ts =>
    refine ⟨ts, ?_⟩
    cases a with
    | host => exact (step_host hturns).trans (hostStep_none (current_ended hnot))
    | engine => exact (step_engine hturns).trans (engineStep_idle hidle)
    | reset => exact absurd hturns (hreset ts)

/-- Settles O54: the branch by `evalCond_field`; `END` by its own step; what follows it by `step_run` and `step_of_ended`. -/
theorem hostBranchesAndEnds : Obligations.HostBranchesAndEnds := by
  refine ⟨fun s ts x hi lo v l n w h hc hx hl => ?_, fun s ts h hc => ?_, fun s t hrun hstep ht => ?_, fun s hrun => ?_,
    fun s hinv hended hreset => ?_, fun s hrun => ?_⟩
  · have hcond := evalCond_field hi lo v hx
    rw [step_host_stmt h hc]
    refine ⟨fun heq => ?_, fun hne => ?_⟩
    · rw [beq_iff_eq.2 heq] at hcond
      simp only [hostStmtStep, hostIf, State.setTurns_host, hcond, hl]
      rfl
    · rw [beq_eq_false_iff_ne.2 hne] at hcond
      simp only [hostStmtStep, hostIf, State.setTurns_host, hcond]
      rfl
  · refine ⟨_, step_host_stmt h hc, rfl, ?_⟩
    rw [ended_iff]
    cases hbusy : s.eng.busy <;> simp [hbusy]
  · exact (step_run hstep).resolve_left fun hsame => ht (hsame.trans hrun)
  · exact ⟨hostEnabled_of_not_running hrun, hostStep_none (current_ended hrun)⟩
  · obtain ⟨ts, hstep⟩ := step_of_ended hinv hended hreset
    exact ⟨_, hstep, rfl, rfl, hended⟩
  · have hnot : ∀ t : State, t.host.run = .endedBusy → t.ended = false := fun t ht => by simp [State.ended, ht]
    refine ⟨hnot s hrun, fun t hstep => ?_⟩
    obtain hsame | hstop := step_run hstep
    · have ht := hsame.trans hrun
      exact ⟨ht, hnot t ht⟩
    · cases hrun.symm.trans (current_some hstop)

/-! ## Observed completion (rules R210, R240, R241) -/

/-- R240: the claimed ranges after a read of STATUS. -/
theorem regRead_status (s : State) : s.regRead .status = (statusWord s.eng, s.setOwned (observed s.eng s.owned)) := rfl

/-- R210: the step of a host that samples an input. -/
theorem step_host_irq {s : State} {ts : List Agent} {n x : Nat} (h : s.turns = .host :: ts)
    (hc : s.host.current = some (.irq n x)) :
    step s =
      .next
        (((s.setTurns ts).setOwned (if hostIrq s.cfg s.eng n then [] else s.owned)).hostBind x
          (.word (bit (hostIrq s.cfg s.eng n)))) :=
  step_host_stmt h hc

/-- Settles O56: idle, a STATUS read releases every range; busy, DONE is 0 and it releases none; an input samples IRQ by
`hostIrq_iff`. -/
theorem observedCompletionReleasesTheRanges : Obligations.ObservedCompletionReleasesTheRanges := by
  refine ⟨fun s ts x hinv h hc => ?_, fun s ts n x h hc => ?_⟩
  · refine ⟨_, step_host_read h hc (by decide) rfl, ?_⟩
    rw [show regAt 0x008 = .status from rfl, regRead_status, lookup_bind_same]
    refine ⟨rfl, fun hbusy => ?_, fun hbusy => ?_⟩
    · show observed s.eng s.owned = []
      simp [observed, hbusy]
    · obtain ⟨hdone, -⟩ := hinv.1.1.2 hbusy
      show observed s.eng s.owned = s.owned
      simp [observed, hbusy, hdone]
  · rw [step_host_irq h hc, ← hostIrq_iff]
    refine ⟨fun hirq => ?_, fun hirq => ?_⟩
    · rw [hirq]
      rfl
    · rw [Bool.eq_false_iff.2 hirq]
      rfl

end Sys2Proof.Machine
end

section
/-! Proofs of the statements about whole buffer commands (43_ecb_controller.md): ECB_ENCRYPT and ENCRYPT run to completion. -/

namespace Sys2Proof.Machine

/-! ## The buffer between two blocks (rules R167 to R169) -/

/-- R169: the ranges are apart, or they are one range. -/
def Engine.RangesFit (e : Engine) : Prop := e.rangesApart ∨ e.src = e.dst

/-- R169: the write of destination block k touches no byte of another source block. -/
theorem not_inBlock_of_rangesFit {e : Engine} (hfit : e.RangesFit) (hlen : lenOk e = true) {i k j : Nat}
    (hi : i < blockCount e) (hk : k < blockCount e) (hik : i ≠ k) (hj : j < 16) :
    ¬InBlock (blockAddr e.dst k) (byteAddr (blockAddr e.src i) j) := by
  rintro ⟨j', hj', h⟩
  obtain hapart | hsame := hfit
  · have hsrc : inRange e.src e.len (byteAddr (blockAddr e.src i) j) = true := inRange_block e.src hlen hi hj
    have hdst : inRange e.dst e.len (byteAddr (blockAddr e.dst k) j') = true := inRange_block e.dst hlen hk hj'
    cases (hapart _ hsrc).symm.trans (h ▸ hdst)
  · rw [hsame] at h
    exact hik (blocks_disjoint e.dst hlen hi hk hj hj' h)

/-- R167, R168: the memory m' when the first k blocks of the buffer that e names are encrypted, m being the memory at the start:
they are written, the source blocks still to be read are as they were, and nothing has changed outside the destination. -/
structure EncryptedUpTo (e : Engine) (m : Memory) (k : Nat) (m' : Memory) : Prop where
  wf : m'.wf = true
  written : ∀ i, i < k → blockAt m' (blockAddr e.dst i) = e.transform (blockAt m (blockAddr e.src i))
  unread : ∀ i, k ≤ i → i < blockCount e → blockAt m' (blockAddr e.src i) = blockAt m (blockAddr e.src i)
  outside : ∀ a, inRange e.dst e.len a = false → m'.read a.toNat = m.read a.toNat

theorem encryptedUpTo_zero (e : Engine) {m : Memory} (hwf : m.wf = true) : EncryptedUpTo e m 0 m :=
  ⟨hwf, fun _ hi => absurd hi (Nat.not_lt_zero _), fun _ _ _ => rfl, fun _ _ => rfl⟩

/-- R167: block k is encrypted next. -/
theorem EncryptedUpTo.next {e : Engine} {m m' : Memory} {k : Nat} (h : EncryptedUpTo e m k m') (hfit : e.RangesFit)
    (hlen : lenOk e = true) (hk : k < blockCount e) :
    EncryptedUpTo e m (k + 1)
      (writeSelected m' (blockAddr e.dst k) (e.transform (blockAt m' (blockAddr e.src k))) fun _ => true) where
  wf := writeSelected_wf _ _ _ h.wf
  written := by
    intro i hi
    obtain rfl | hne := eq_or_ne i k
    · rw [blockAt_writeSelected _ _ h.wf, h.unread i le_rfl hk]
    · rw [← h.written i (by omega)]
      refine blockAt_congr fun j hj => writeSelected_read_of_not_inBlock _ _ ?_
      rintro ⟨j', hj', heq⟩
      exact hne (blocks_disjoint e.dst hlen (by omega) hk hj hj' heq)
  unread := by
    intro i hi hlt
    rw [← h.unread i (by omega) hlt]
    refine blockAt_congr fun j hj => writeSelected_read_of_not_inBlock _ _ ?_
    exact not_inBlock_of_rangesFit hfit hlen hlt hk (by omega) hj
  outside := by
    intro a ha
    rw [← h.outside a ha]
    refine writeSelected_read_of_not_inBlock _ _ ?_
    rintro ⟨j, hj, rfl⟩
    cases ha.symm.trans (inRange_block e.dst hlen hk hj)

/-! ## The run of the BLOCK steps (rule R181) -/

/-- R33, R41: the engine e before block k. -/
def Engine.atBlock (e : Engine) (k : Nat) (w : Block) : Engine := { e with blkcnt := BitVec.ofNat 32 k, blk := k, work := w }

theorem Engine.blockDone_atBlock (e : Engine) (k : Nat) (w ct : Block) :
    (e.atBlock k w).blockDone ct =
      if k + 1 = blockCount e then (e.atBlock (k + 1) ct).finish .ok else e.atBlock (k + 1) ct := rfl

theorem run_of_step {k : Nat} {s t : State} (h : step s = .next t) :
    Host.Core.run Sys2Proof.core (k + 1) s = Host.Core.run Sys2Proof.core k t := by
  rw [run_succ, h]

theorem step_engine_cmd {s : State} {ts : List Agent} {i : Instr} (h : s.turns = .engine :: ts) (hop : s.eng.op = .cmd i) :
    step s = exec i (s.setTurns ts) :=
  (step_engine h).trans (engineStep_cmd hop)

section
variable {e : Engine} {i : Instr} {m : Memory} (hphase : e.phase = .block) (hop : e.op = .cmd i)
include hphase hop

/-- R167: the ENGINE's step at a block that can be read and written. -/
theorem step_atBlock {s : State} {ts : List Agent} {k : Nat} {w : Block} (heng : s.eng = e.atBlock k w)
    (hturns : s.turns = .engine :: ts) (hok : e.buffersOk s.cfg) (hk : k < blockCount e) :
    ∃ t ct, step s = .next t ∧ t.turns = ts ∧ t.cfg = s.cfg ∧ t.eng = (e.atBlock k w).blockDone ct ∧
      ct = e.transform (blockAt s.mem (blockAddr e.src k)) ∧
      t.mem = writeSelected s.mem (blockAddr e.dst k) ct fun _ => true := by
  have hphase' : (s.setTurns ts).eng.phase = .block := (congrArg Engine.phase heng).trans hphase
  have hstep := step_engine_cmd hturns ((congrArg Engine.op heng).trans hop)
  obtain ⟨hr, hw⟩ := hok k hk
  have hdst : (s.setTurns ts).dstBlock = blockAddr e.dst k := by 
    rw [State.dstBlock, State.setTurns_eng, heng]
    rfl
  have hct : (s.setTurns ts).ciphertext = e.transform (blockAt s.mem (blockAddr e.src k)) := by
    rw [State.ciphertext, Engine.transform, State.setTurns_eng, heng]
    rfl
  have hblock : (s.setTurns ts).blockStep = _ := blockStep_of_ok (by rw [State.setTurns_eng, heng]; exact hr) (hdst ▸ hw)
  rw [hdst] at hblock
  refine ⟨_, _, hstep.trans ((exec_block hphase').trans (congrArg _ hblock)), ?_, ?_, ?_, hct, ?_⟩
  · rw [State.setEng_turns, State.setMem_turns, State.setTurns_turns]
  · rw [State.setEng_cfg, State.setMem_cfg, State.setTurns_cfg]
  · rw [State.setEng_eng, State.setTurns_eng, heng]
  · rw [State.setEng_mem, State.setMem_mem, State.setTurns_mem]

/-- R167, R181: from block k on, the remaining n + 1 blocks take as many ENGINE steps, the last of which completes the command. -/
theorem run_blocks (hlen : lenOk e = true) (hfit : e.RangesFit) (n : Nat) :
    ∀ {s : State} {ts : List Agent} {k : Nat} {w : Block}, k + (n + 1) = blockCount e → s.eng = e.atBlock k w →
      e.buffersOk s.cfg → s.turns = List.replicate (n + 1) .engine ++ ts → EncryptedUpTo e m k s.mem →
      ∃ t w', Host.Core.run Sys2Proof.core (n + 1) s = .next t ∧ t.turns = ts ∧
        t.eng = (e.atBlock (blockCount e) w').finish .ok ∧ EncryptedUpTo e m (blockCount e) t.mem := by
  induction n with
  | zero =>
    intro s ts k w hcount heng hok hturns hmem
    obtain ⟨t, ct, hstep, hts, -, heng', rfl, hmem'⟩ := step_atBlock hphase hop heng hturns hok (by omega)
    have hnext := hmem.next hfit hlen (by omega)
    rw [← hmem'] at hnext
    rw [Engine.blockDone_atBlock, if_pos hcount] at heng'
    rw [← hcount]
    exact ⟨t, _, run_of_step hstep, hts, heng', hnext⟩
  | succ n ih =>
    intro s ts k w hcount heng hok hturns hmem
    obtain ⟨t, ct, hstep, hts, hcfg, heng', rfl, hmem'⟩ := step_atBlock hphase hop heng hturns hok (by omega)
    have hnext := hmem.next hfit hlen (by omega)
    rw [← hmem'] at hnext
    rw [Engine.blockDone_atBlock, if_neg (by omega)] at heng'
    rw [run_of_step hstep]
    exact ih (by omega) heng' (hcfg ▸ hok) hts hnext

end

/-- R167, R181: a command that enters BLOCK with block 0 takes one ENGINE step a block. -/
theorem run_from_block_zero {s : State} {ts : List Agent} {i : Instr} (hphase : s.eng.phase = .block) (hop : s.eng.op = .cmd i)
    (hblk : s.eng.blk = 0) (hcnt : s.eng.blkcnt = 0#32) (hlen : lenOk s.eng = true) (hfit : s.eng.RangesFit)
    (hok : s.eng.buffersOk s.cfg) (hwf : s.mem.wf = true) (hturns : s.turns = List.replicate (blockCount s.eng) .engine ++ ts) :
    ∃ t w, Host.Core.run Sys2Proof.core (blockCount s.eng) s = .next t ∧ t.turns = ts ∧
      t.eng = (s.eng.atBlock (blockCount s.eng) w).finish .ok ∧ EncryptedUpTo s.eng s.mem (blockCount s.eng) t.mem := by
  have heng : s.eng = s.eng.atBlock 0 s.eng.work := by
    rw [Engine.atBlock, ← hblk, ← hcnt.trans (congrArg (BitVec.ofNat 32) hblk.symm)]
  obtain ⟨n, hn⟩ := Nat.exists_eq_add_of_lt (lenOk_blocks hlen).2.1
  rw [Nat.zero_add] at hn
  have hrun := run_blocks (m := s.mem) hphase hop hlen hfit n (by omega) heng hok (hn ▸ hturns) (encryptedUpTo_zero s.eng hwf)
  rwa [← hn] at hrun

/-! ## The commands (rules R173, R174, R181) -/

/-- R173: ECB_ENCRYPT's START step, with the ENGINE to move next. -/
theorem step_start_ecbEncrypt {s : State} {ts : List Agent} (hturns : s.turns = .engine :: ts) (hphase : s.eng.phase = .start)
    (hop : s.eng.op = .cmd .ecbEncrypt) (hvalid : s.eng.keyvalid = true) (hlen : lenOk s.eng = true) :
    step s = .next ((s.setTurns ts).goTo .block) :=
  (step_engine_cmd hturns hop).trans (exec_ecbEncrypt_of_lenOk (s := s.setTurns ts) hphase hvalid hlen)

/-- Settles O59: one START step, then the blocks. -/
theorem ecbEncryptRunsToCompletion : Obligations.EcbEncryptRunsToCompletion := by
  intro s ts hinv hphase hop hvalid hlen hok hfit hturns
  obtain ⟨⟨-, hstart, -⟩, hwf, -⟩ := hinv
  rw [Engine.phaseInv, hphase] at hstart
  obtain ⟨hblk, hcnt⟩ := hstart
  rw [Nat.add_comm, List.replicate_succ, List.cons_append] at hturns
  have hstep := step_start_ecbEncrypt hturns hphase hop hvalid hlen
  obtain ⟨t, w, hrun, hts, heng, hmem⟩ :=
    run_from_block_zero (s := (s.setTurns (List.replicate (blockCount s.eng) .engine ++ ts)).goTo .block) rfl hop hblk
      (hcnt (by rw [hop]; rfl)) hlen hfit hok hwf rfl
  refine ⟨t, ?_, hts, ?_, hmem.written, hmem.outside⟩
  · rw [Nat.add_comm, run_of_step hstep]
    exact hrun
  · rw [heng]
    rfl

/-- R174: ENCRYPT's START step, with the ENGINE to move next. -/
theorem step_start_encrypt {s : State} {ts : List Agent} (hturns : s.turns = .engine :: ts) (hphase : s.eng.phase = .start)
    (hop : s.eng.op = .cmd .encrypt) (hkey : keylenOk s.eng = true) (hlen : lenOk s.eng = true) :
    step s = .next ((s.setTurns ts).goTo .expand) :=
  (step_engine_cmd hturns hop).trans (exec_encrypt_of_lenOk (s := s.setTurns ts) hphase hkey hlen)

/-- R166, R174: ENCRYPT's EXPAND step, with the ENGINE to move next. -/
theorem step_expand_encrypt {s : State} {ts : List Agent} (hturns : s.turns = .engine :: ts) (hphase : s.eng.phase = .expand)
    (hop : s.eng.op = .cmd .encrypt) :
    step s =
      .next ((s.setTurns ts).setEng (s.eng.loadSchedule (s.eng.expansion s.cfg).1 (s.eng.expansion s.cfg).2).enterBlocks) :=
  (step_engine_cmd hturns hop).trans (exec_expand_of_encrypt (s := s.setTurns ts) hphase hop)

/-- R166: the engine as ENCRYPT's EXPAND step leaves it, from the registers that acceptance found. -/
def Engine.expanded (p : Platform) (e : Engine) : Engine :=
  { e with
    rks := if e.keylen = 16#8 then keyExpansion128 (keyBytes e) else keyExpansion256 p.ks256Mode (keyBytes e)
    rounds := if e.keylen = 16#8 then 10#8 else 14#8
    keyvalid := true, blk := 0, phase := .block }

/-- R174, R181: ENCRYPT reaches its first block in two ENGINE steps. -/
theorem run_encrypt_to_blocks {s : State} {ts : List Agent} (hturns : s.turns = .engine :: .engine :: ts)
    (hphase : s.eng.phase = .start) (hop : s.eng.op = .cmd .encrypt) (hkey : keylenOk s.eng = true) (hlen : lenOk s.eng = true)
    (k : Nat) :
    Host.Core.run Sys2Proof.core (k + 2) s =
      Host.Core.run Sys2Proof.core k ((s.setTurns ts).setEng (s.eng.expanded s.cfg)) := by
  have hexpand := step_expand_encrypt (s := (s.setTurns (.engine :: ts)).goTo .expand) (ts := ts) rfl rfl hop
  rw [loadSchedule_expansion] at hexpand
  exact (run_of_step (step_start_encrypt hturns hphase hop hkey hlen)).trans (run_of_step hexpand)

/-- Settles O60: the START step and the EXPAND step, then the blocks with the schedule it loaded. -/
theorem encryptRunsToCompletion : Obligations.EncryptRunsToCompletion := by
  intro s ts hinv hphase hop hkey hlen hok hfit hturns
  obtain ⟨⟨-, hstart, -⟩, hwf, -⟩ := hinv
  rw [Engine.phaseInv, hphase] at hstart
  obtain ⟨-, hcnt⟩ := hstart
  rw [Nat.add_comm, List.replicate_succ, List.replicate_succ, List.cons_append, List.cons_append] at hturns
  obtain ⟨t, w, hrun, hts, heng, hmem⟩ :=
    run_from_block_zero (ts := ts)
      (s := (s.setTurns (List.replicate (blockCount s.eng) .engine ++ ts)).setEng (s.eng.expanded s.cfg))
      rfl hop rfl (hcnt (by rw [hop]; rfl)) hlen hfit hok hwf rfl
  refine ⟨t, ?_, hts, ?_, fun i hi => ?_, hmem.outside⟩
  · rw [Nat.add_comm, run_encrypt_to_blocks hturns hphase hop hkey hlen]
    exact hrun
  · rw [heng]
    rfl
  · have hrounds : (s.eng.expanded s.cfg).rounds.toNat = if s.eng.keylen = 16#8 then 10 else 14 := by
      simp only [Engine.expanded]
      split <;> rfl
    rw [heng, ← hrounds]
    exact hmem.written i hi

end Sys2Proof.Machine
end
